-- ==== Sys2Proof/Word.lean ====
section
/-! DEFINITION. The unsigned values of the SWB/KS block: `u8`, `u16` and `u32` of rule R10 (00_scope.md).
Every value is unsigned; no command reads one as signed. -/

namespace Sys2Proof

/-- `u8` (R10): a byte of a register, of the NVM or of the bus. -/
abbrev Byte := BitVec 8

/-- `u16` (R10): the live-key counter and the value a command returns. -/
abbrev Half := BitVec 16

/-- `u32` (R10): a command word and a host register word. -/
abbrev Word := BitVec 32

end Sys2Proof
end

