-- ==== Sys2Proof/Syntax.lean ====
section
/-! DEFINITION. The commands of the block: one constructor per row of the opcode map (30_encoding.md rule R63).
Operands are numbers as the assembler is given them (DESIGN CHOICE, log entry 12); `WellFormed` says when they fit
their form (R61, R69). -/

namespace Sys2Proof

/-- The operand forms of R61. -/
inductive Form where
  /-- `N`: no operand, `IMM` = 0. -/
  | none
  /-- `B`: one bit, `IMM[0]`. -/
  | bit
  /-- `Y`: one byte, `IMM[7:0]`. -/
  | byte
  /-- `H`: one half, `IMM[15:0]`. -/
  | half
  deriving DecidableEq, Repr

/-- The commands of R63, in the table's order. -/
inductive Instr where
  | nop
  | owReset
  | owWriteBit (b : Nat)
  | owReadBit
  | owWriteByte (v : Nat)
  | owReadByte
  | owWriteEnable
  | owReadId
  | owReadRaw
  | owCloneWrite
  | owEmulatePoll
  | crcClear
  | crcUpdate (v : Nat)
  | crcSeal
  | ksCount
  | ksGet (n : Nat)
  | ksInsert
  | ksDelete (n : Nat)
  | ksSetCount (n : Nat)
  | ksResolve (n : Nat)
  deriving DecidableEq, Repr

/-- The operand form of each command (R63). -/
def Instr.form : Instr → Form
  | .nop => .none
  | .owReset => .none
  | .owWriteBit _ => .bit
  | .owReadBit => .none
  | .owWriteByte _ => .byte
  | .owReadByte => .none
  | .owWriteEnable => .none
  | .owReadId => .none
  | .owReadRaw => .none
  | .owCloneWrite => .none
  | .owEmulatePoll => .none
  | .crcClear => .none
  | .crcUpdate _ => .byte
  | .crcSeal => .none
  | .ksCount => .none
  | .ksGet _ => .half
  | .ksInsert => .none
  | .ksDelete _ => .half
  | .ksSetCount _ => .half
  | .ksResolve _ => .half

/-- The operand as written, 0 for a command without one (R62). -/
def Instr.operand : Instr → Nat
  | .nop => 0
  | .owReset => 0
  | .owWriteBit b => b
  | .owReadBit => 0
  | .owWriteByte v => v
  | .owReadByte => 0
  | .owWriteEnable => 0
  | .owReadId => 0
  | .owReadRaw => 0
  | .owCloneWrite => 0
  | .owEmulatePoll => 0
  | .crcClear => 0
  | .crcUpdate v => v
  | .crcSeal => 0
  | .ksCount => 0
  | .ksGet n => n
  | .ksInsert => 0
  | .ksDelete n => n
  | .ksSetCount n => n
  | .ksResolve n => n

/-- The mnemonic of R63, as the opcode table spells it. -/
def Instr.mnemonic : Instr → String
  | .nop => "NOP"
  | .owReset => "OW_RESET"
  | .owWriteBit _ => "OW_WRITE_BIT"
  | .owReadBit => "OW_READ_BIT"
  | .owWriteByte _ => "OW_WRITE_BYTE"
  | .owReadByte => "OW_READ_BYTE"
  | .owWriteEnable => "OW_WRITE_ENABLE"
  | .owReadId => "OW_READ_ID"
  | .owReadRaw => "OW_READ_RAW"
  | .owCloneWrite => "OW_CLONE_WRITE"
  | .owEmulatePoll => "OW_EMULATE_POLL"
  | .crcClear => "CRC_CLEAR"
  | .crcUpdate _ => "CRC_UPDATE"
  | .crcSeal => "CRC_SEAL"
  | .ksCount => "KS_COUNT"
  | .ksGet _ => "KS_GET"
  | .ksInsert => "KS_INSERT"
  | .ksDelete _ => "KS_DELETE"
  | .ksSetCount _ => "KS_SET_COUNT"
  | .ksResolve _ => "KS_RESOLVE"

end Sys2Proof
end

