-- ==== Sys2Proof/WellFormed.lean ====
section
/-! DEFINITION. When a command's operand fits its form (30_encoding.md rules R61, R69): b ∈ 0..1, v ≤ 0xFF,
n ≤ 0xFFFF. An operand that does not fit is an assembly error, never a truncation. -/

namespace Sys2Proof

/-- The largest operand each form's `IMM` bits hold (R61). -/
def Form.maxOperand : Form → Nat
  | .none => 0
  | .bit => 1
  | .byte => 0xFF
  | .half => 0xFFFF

/-- The operand fits the form's field (R69). -/
def Instr.wellFormed (i : Instr) : Bool :=
  decide (i.operand ≤ i.form.maxOperand)

end Sys2Proof
end

