-- ==== Sys2Proof/Decode.lean ====
section
/-! DEFINITION. The command word: decoding of all 2^32 words (30_encoding.md rules R60 to R68), the encoder, and
the byte order a word crosses the register block in (20_memory.md rule R36). -/

namespace Sys2Proof

/-! ## Byte order (R36: little-endian) -/

/-- The `n` bytes of the number `v`, least significant first (R36, R11). -/
def leBytes : (n v : Nat) → List Byte
  | 0, _ => []
  | n + 1, v => BitVec.ofNat 8 v :: leBytes n (v / 256)

/-- The number whose bytes these are, least significant first (R36, R11). -/
def leNumber : List Byte → Nat
  | [] => 0
  | b :: rest => b.toNat + 256 * leNumber rest

/-! ## The opcode map -/

/-- One row of R63: a word `w` selects it when `w & mask = pattern`, and the bits the mask leaves are its operand. -/
structure OpcodeRow where
  pattern : Word
  mask : Word
  make : Nat → Instr

/-- The opcode map of R63, in its order. -/
def opcodeMap : List OpcodeRow :=
  [ ⟨0x00000000#32, 0xFFFFFFFF#32, fun _ => .nop⟩,
    ⟨0x01000000#32, 0xFFFFFFFF#32, fun _ => .owReset⟩,
    ⟨0x02000000#32, 0xFFFFFFFE#32, .owWriteBit⟩,
    ⟨0x03000000#32, 0xFFFFFFFF#32, fun _ => .owReadBit⟩,
    ⟨0x04000000#32, 0xFFFFFF00#32, .owWriteByte⟩,
    ⟨0x05000000#32, 0xFFFFFFFF#32, fun _ => .owReadByte⟩,
    ⟨0x06000000#32, 0xFFFFFFFF#32, fun _ => .owWriteEnable⟩,
    ⟨0x10000000#32, 0xFFFFFFFF#32, fun _ => .owReadId⟩,
    ⟨0x11000000#32, 0xFFFFFFFF#32, fun _ => .owReadRaw⟩,
    ⟨0x12000000#32, 0xFFFFFFFF#32, fun _ => .owCloneWrite⟩,
    ⟨0x13000000#32, 0xFFFFFFFF#32, fun _ => .owEmulatePoll⟩,
    ⟨0x20000000#32, 0xFFFFFFFF#32, fun _ => .crcClear⟩,
    ⟨0x21000000#32, 0xFFFFFF00#32, .crcUpdate⟩,
    ⟨0x22000000#32, 0xFFFFFFFF#32, fun _ => .crcSeal⟩,
    ⟨0x30000000#32, 0xFFFFFFFF#32, fun _ => .ksCount⟩,
    ⟨0x31000000#32, 0xFFFF0000#32, .ksGet⟩,
    ⟨0x32000000#32, 0xFFFFFFFF#32, fun _ => .ksInsert⟩,
    ⟨0x33000000#32, 0xFFFF0000#32, .ksDelete⟩,
    ⟨0x34000000#32, 0xFFFF0000#32, .ksSetCount⟩,
    ⟨0x35000000#32, 0xFFFF0000#32, .ksResolve⟩ ]

/-- `(w & mask) = match` of R63. -/
def OpcodeRow.selects (r : OpcodeRow) (w : Word) : Bool :=
  w &&& r.mask == r.pattern

/-- The operand of a selected row: the bits its mask leaves, zero-extended (R62). -/
def OpcodeRow.instr (r : OpcodeRow) (w : Word) : Instr :=
  r.make (w &&& ~~~r.mask).toNat

/-- Why a word decodes as `ILLEGAL` (R64, R65). Both complete with `ILLEGAL_COMMAND` (R66). -/
inductive Illegal where
  /-- The opcode is not in the map (R65). -/
  | reservedOpcode
  /-- The opcode is in the map, and `RSV` or a must-be-zero `IMM` bit is set (R61, R64). -/
  | reservedBits
  /-- Fewer than the four bytes of a command word: a narrow `CMD` write is a host error, no command (R68). -/
  | narrow
  deriving DecidableEq, Repr

/-- The opcode field `OPC` = bits 31:24 (R60). -/
def opcodeField (w : Word) : Byte := w.extractLsb' 24 8

/-- `decode` of R64, total on all 2^32 words. -/
def decode (w : Word) : Except Illegal Instr :=
  match opcodeMap.find? (fun r => r.selects w) with
  | some r => .ok (r.instr w)
  | none =>
    if opcodeMap.any (fun r => opcodeField r.pattern == opcodeField w) then .error .reservedBits
    else .error .reservedOpcode

/-- Decoding from the bytes of a register write, lowest address first: one 4-byte word, and the bytes after it
(R36, R60, R68). -/
def decodeBytes : List Byte → Except Illegal (Instr × List Byte)
  | b0 :: b1 :: b2 :: b3 :: rest =>
    match decode (BitVec.ofNat 32 (leNumber [b0, b1, b2, b3])) with
    | .ok i => .ok (i, rest)
    | .error e => .error e
  | _ => .error .narrow

/-- The instruction the decoder reads from a word numbered as the opcode table numbers it: the four bytes of the
word as `CMD` takes them (R36), the bits above `nbits` zero. -/
def decodeTableWord (nbits w : Nat) : Option Instr :=
  match decodeBytes (leBytes 4 (w % 2 ^ nbits)) with
  | .ok (i, _) => some i
  | .error _ => none

/-! ## The encoder -/

/-- The command word of a well-formed command (R60, R63): its opcode with the operand in `IMM`. -/
def encode : Instr → Word
  | .nop => 0x00000000#32
  | .owReset => 0x01000000#32
  | .owWriteBit b => 0x02000000#32 ||| BitVec.ofNat 32 b
  | .owReadBit => 0x03000000#32
  | .owWriteByte v => 0x04000000#32 ||| BitVec.ofNat 32 v
  | .owReadByte => 0x05000000#32
  | .owWriteEnable => 0x06000000#32
  | .owReadId => 0x10000000#32
  | .owReadRaw => 0x11000000#32
  | .owCloneWrite => 0x12000000#32
  | .owEmulatePoll => 0x13000000#32
  | .crcClear => 0x20000000#32
  | .crcUpdate v => 0x21000000#32 ||| BitVec.ofNat 32 v
  | .crcSeal => 0x22000000#32
  | .ksCount => 0x30000000#32
  | .ksGet n => 0x31000000#32 ||| BitVec.ofNat 32 n
  | .ksInsert => 0x32000000#32
  | .ksDelete n => 0x33000000#32 ||| BitVec.ofNat 32 n
  | .ksSetCount n => 0x34000000#32 ||| BitVec.ofNat 32 n
  | .ksResolve n => 0x35000000#32 ||| BitVec.ofNat 32 n

/-- The assembler of R69: the word, or an assembly error for an operand that does not fit its form. -/
def assemble (i : Instr) : Option Word :=
  if i.wellFormed then some (encode i) else none

/-- The eight hexadecimal digits of a word, most significant first (R69). R69 does not say which case: they are lower
case (DESIGN CHOICE, log entry 21). -/
def wordDigits (w : Word) : String :=
  String.ofList ([7, 6, 5, 4, 3, 2, 1, 0].map fun k => Nat.digitChar (w.toNat / 16 ^ k % 16))

/-- The disassembler of R69: the mnemonic with its operand, or `.word 0x........`. R69 allows decimal and hexadecimal
operands and does not say which is printed: it is decimal (DESIGN CHOICE, log entry 21). -/
def disassemble (w : Word) : String :=
  match decode w with
  | .ok i =>
    match i.form with
    | .none => i.mnemonic
    | .bit => i.mnemonic ++ " " ++ toString i.operand
    | .byte => i.mnemonic ++ " " ++ toString i.operand
    | .half => i.mnemonic ++ " " ++ toString i.operand
  | .error _ => ".word 0x" ++ wordDigits w

end Sys2Proof
end

