-- ==== Sys2Proof/Config.lean ====
section
/-! DEFINITION. What an implementation of the block fixes (the parameters of 00_scope.md rule R8), and the free
values: constants without a body, of which no proof can see the value. -/

namespace Sys2Proof

/-- `INSERT_RUN_END` (R8, R92): the end of a free-run that loses a slot to an insert. -/
inductive RunEnd where
  | head
  | tail
  deriving DecidableEq, Repr

/-- `WE_FORM` (R8, R115): how the two write-enable statements of the source combine. -/
inductive WeForm where
  | bytePlusPulse
  | byteOnly
  | pulseOnly
  deriving DecidableEq, Repr

/-- The durations of R8 and R177, in one unit of time that the spec leaves open. No result depends on them. -/
structure Timing where
  tRstl : Nat
  tMsp : Nat
  tRsth : Nat
  tW1l : Nat
  tW0l : Nat
  tRec : Nat
  tRl : Nat
  tMsr : Nat
  tSlot : Nat
  tWeLow : Nat
  tWeSettle : Nat
  tProg : Nat
  deriving DecidableEq, Repr

/-- The implementation parameters of R8. They are part of `State` so that every claim is about every
implementation, and no step changes them. -/
structure Config where
  /-- `BASE`: the host address of register offset 0x00. -/
  base : Nat
  /-- `NSLOTS`: the number of physical slots. -/
  nslots : Nat
  /-- `NVM_SIZE`: the number of bytes in the NVM. -/
  nvmSize : Nat
  /-- `FAMILY_CODE`: byte 0 of an accepted identity. -/
  familyCode : Byte
  insertRunEnd : RunEnd
  weForm : WeForm
  /-- `WRITE_DATA_INVERT`. -/
  writeDataInvert : Bool
  /-- `EMU_SLOT_TIMEOUT`: `none` is `None`, `some t` is `Some t`. -/
  emuSlotTimeout : Option Nat
  timing : Timing
  deriving DecidableEq, Repr

/-- What R8, R9 and R106 require of the parameters: 1 ≤ NSLOTS ≤ 127, room for the table in at most 65536 bytes,
FAMILY_CODE ≠ 0x02, and T_W1L ≠ T_W0L. -/
def Config.ok (c : Config) : Bool :=
  decide (1 ≤ c.nslots) && decide (c.nslots ≤ 127)
    && decide (2 + 41 * c.nslots ≤ c.nvmSize) && decide (c.nvmSize ≤ 65536)
    && (c.familyCode != 0x02#8) && (c.timing.tW1l != c.timing.tW0l)

/-- One look of `SlaveSense` at the line (R13, R127). -/
inductive LineSample where
  | idle
  | reset
  | short
  | long
  deriving DecidableEq, Repr, Inhabited

/-- What the external master does next while `SlaveWait` waits (R13, R127). -/
inductive MasterEvent where
  /-- A reset pulse. -/
  | reset
  /-- A slot whose low ends before the sample point. -/
  | short
  /-- A slot whose low lasts past the sample point. -/
  | long
  /-- No further event: `STimeout` under `Some t`, and a wait that never ends under `None`. -/
  | silent
  /-- Reset pulses without end, so that the pass never ends, timeout or not (R13, R132; DEDUCED, log entry 4). -/
  | resets
  deriving DecidableEq, Repr, Inhabited

/-! The parameters R8 marks OPEN ("arguments of the model with no default the model may assume"), as the state
right after reset holds them: constants without a value, in a form that meets `Config.ok` whatever they are. -/

/-- `NSLOTS` − 1 (DESIGN CHOICE, log entry 1). -/
opaque Config.openSlots : Fin 127

/-- The NVM bytes above the slot table, before the 65536 limit (DESIGN CHOICE, log entry 1). -/
opaque Config.openNvmSpare : Nat

/-- `BASE` (DESIGN CHOICE, log entry 1). -/
opaque Config.openBase : Nat

/-- The twelve durations, numbered in the order of R8 (DESIGN CHOICE, log entry 1). -/
opaque Config.openDuration : Nat → Nat

/-! The free values: draws of the bus environment and bytes the spec calls "any value". The argument is a count
that the step advances, or the address, so that two of them are never known to be equal. -/

/-- A presence draw (R13, R105; DESIGN CHOICE, log entry 3). -/
opaque Config.freePresence : Nat → Bool

/-- A read-slot draw (R13, R107; DESIGN CHOICE, log entry 3). -/
opaque Config.freeBit : Nat → Bool

/-- A `SlaveSense` draw (R13, R127; DESIGN CHOICE, log entry 3). -/
opaque Config.freeSample : Nat → LineSample

/-- What the external master sends from here on: a list of any length, then silence unless the list ends in reset
pulses without end (R13, R127, R133; DEDUCED, log entry 4). -/
opaque Config.freeMaster : Nat → List MasterEvent

/-- What a host read of a register other than `STATUS` gives while `BUSY` = 1 (R39; DESIGN CHOICE, log entry 5).
The argument counts such reads, apart from the draws of the bus. -/
opaque Config.freeRead : Nat → Word

/-- An NVM byte that nothing has written (R165; DESIGN CHOICE, log entry 2). -/
opaque Config.freeNvm : Nat → Byte

/-- The parameters as the state after reset holds them: the defaults of R8 where it gives one, the OPEN constants
where it gives none (DESIGN CHOICE, log entry 1). -/
def Config.atReset : Config where
  base := Config.openBase
  nslots := Config.openSlots.val + 1
  nvmSize := min 65536 (2 + 41 * (Config.openSlots.val + 1) + Config.openNvmSpare)
  familyCode := 0x01#8
  insertRunEnd := .head
  weForm := .bytePlusPulse
  writeDataInvert := false
  emuSlotTimeout := none
  timing :=
    { tRstl := Config.openDuration 0
      tMsp := Config.openDuration 1
      tRsth := Config.openDuration 2
      tW1l := Config.openDuration 3
      tW0l := if Config.openDuration 4 = Config.openDuration 3 then Config.openDuration 4 + 1
        else Config.openDuration 4
      tRec := Config.openDuration 5
      tRl := Config.openDuration 6
      tMsr := Config.openDuration 7
      tSlot := Config.openDuration 8
      tWeLow := Config.openDuration 9
      tWeSettle := Config.openDuration 10
      tProg := Config.openDuration 11 }

end Sys2Proof
end

