-- ==== Sys2Proof/Machine/State.lean ====
section
/-! DEFINITION. The state of the SWB/KS block (10_state.md rule R15: registers, sequencer, line driver, NVM, bus
history, fault record) with the model's own fields beside it (parameters, what the host and the bus environment
do next, the data of the last host read, the count of busy reads), and the state after reset (R29). -/

namespace Sys2Proof.Machine

/-! ## The bus -/

/-- `LINE_DRIVE` (R20). -/
inductive Drive where
  | released
  | low
  deriving DecidableEq, Repr

/-- The values `SlaveSaw` records (R27). -/
inductive SlaveEvent where
  | idle
  | reset
  | short
  | long
  | timeout
  deriving DecidableEq, Repr

/-- The events of the bus history `H` (R27). -/
inductive Event where
  | resetSlot (presence : Bool)
  | writeSlot (b : Bool)
  | readSlot (b : Bool)
  | wePulse
  | slaveSaw (e : SlaveEvent)
  | slavePresence
  | slaveBit (b : Bool)
  | truncated
  deriving DecidableEq, Repr

/-- The bus environment's answers (R7, R13, R30): for each kind of draw the answers it gives next, oldest first.
Where a list is used up the answer is a free value of `Config`, numbered by `drawn` (DESIGN CHOICE, log
entry 3). -/
structure Env where
  presence : List Bool
  bits : List Bool
  samples : List LineSample
  master : List MasterEvent
  drawn : Nat
  deriving DecidableEq, Repr

/-- The single-wire side of the block: `LINE_DRIVE` (R20), the history `H` (R27), and the environment's answers. -/
structure Bus where
  line : Drive
  hist : List Event
  env : Env
  deriving DecidableEq, Repr

/-! ## Errors, host accesses, fault record -/

/-- The errors a command raises (R143), each with the `info` its rule gives it. -/
inductive CmdError where
  | noDevice
  | wrongFamily (b : Byte)
  | badChecksum
  | verifyMismatch
  | illegalCommand (w : Word)
  | indexRange (n : Nat)
  | tableOverrun (p : Nat)
  | storeFull
  | badType (t : Byte)
  | badName
  | corruptMarker (q : Nat)
  deriving DecidableEq, Repr

/-- A host access to the register space (R34, R70): its host byte address, its width in bytes, and the value of a
write. -/
inductive HostAccess where
  | read (addr width : Nat)
  | write (addr width : Nat) (value : Word)
  deriving DecidableEq, Repr

/-- An entry of `FREC` (R26, R147): a class F completion with its command word, or a host error with the access. -/
inductive FaultEntry where
  | command (e : CmdError) (w : Word)
  | hostError (a : HostAccess)
  deriving DecidableEq, Repr

/-! ## Registers -/

/-- `STATUS` (R19) by its fields. The reserved bits 7:5 and 31:16 read 0; `Status.word` gives the 32-bit word
(DESIGN CHOICE, log entry 11). -/
structure Status where
  busy : Bool
  done : Bool
  err : Bool
  fault : Bool
  hazard : Bool
  errcode : Byte
  deriving DecidableEq, Repr

/-- The host-visible registers (R17 to R25). -/
structure Regs where
  cmd : Word
  status : Status
  result : Word
  keyType : Byte
  idbuf : Vector Byte 8
  rbbuf : Vector Byte 8
  namebuf : Vector Byte 32
  crc : Byte
  deriving DecidableEq, Repr

/-- The sequencer state `SEQ` (R24). -/
inductive Seq where
  | idle
  | busy (w : Word)
  deriving DecidableEq, Repr

/-! ## The NVM -/

/-- The NVM (R16) as the bytes that have been written, by address, strictly rising. A byte that nothing has
written has no entry; `Memory.read` (Machine/Ops.lean) gives a free value for it (R165; DESIGN CHOICE, log
entry 2). -/
abbrev Memory := List Host.Cell

/-! ## What comes from outside the block -/

/-- Where a reset cuts a running command (R162, R163): how many of its bus slots were completed, whether the next
one was in progress, how many of its NVM byte writes were applied, and what the byte in progress then holds
(DESIGN CHOICE, log entry 10). -/
structure Truncation where
  slots : Nat
  inSlot : Bool
  writes : Nat
  torn : Byte
  deriving DecidableEq, Repr

/-- A step of the interleaving of R152: a host access, the controller's turn, or a reset. -/
inductive Input where
  | host (a : HostAccess)
  | controller
  | reset (t : Truncation)
  deriving DecidableEq, Repr

/-! ## The state -/

/-- The state of the block (R15), with the model's own fields `cfg`, `bus.env`, `agenda`, `rdata` and `reads`. -/
structure State where
  /-- The implementation parameters (R8). The model's own field. -/
  cfg : Config
  /-- `REGS` (R17 to R25). -/
  regs : Regs
  /-- `SEQ` (R24). -/
  seq : Seq
  /-- `LINE_DRIVE` (R20) and `H` (R27), with the bus environment's answers (the model's own). -/
  bus : Bus
  /-- `NVM` (R16). -/
  nvm : Memory
  /-- `FREC` (R26). -/
  frec : List FaultEntry
  /-- Who moves next (R152), oldest first. When it is empty a busy controller moves, and an idle block does
  nothing (R80, R159). The model's own field (DESIGN CHOICE, log entry 7). -/
  agenda : List Input
  /-- The data the last host read returned (R36, R38, R39). The model's own field (DESIGN CHOICE, log entry 6). -/
  rdata : Word
  /-- How many host reads have returned a free value (R39). It numbers those values and nothing else, so a host read
  changes no draw of a running command. The model's own field (DESIGN CHOICE, log entry 5). -/
  reads : Nat
  deriving DecidableEq, Repr

/-! ## Reset values -/

/-- `STATUS` = 0 (R29). -/
def Status.reset : Status where
  busy := false
  done := false
  err := false
  fault := false
  hazard := false
  errcode := 0#8

/-- Every register at its reset value (R17, R29). -/
def Regs.reset : Regs where
  cmd := 0#32
  status := Status.reset
  result := 0#32
  keyType := 0#8
  idbuf := Vector.replicate 8 0#8
  rbbuf := Vector.replicate 8 0#8
  namebuf := Vector.replicate 32 0#8
  crc := 0#8

/-- The environment has announced no answer: every draw is a free value (DESIGN CHOICE, log entry 3). -/
def Env.unannounced : Env where
  presence := []
  bits := []
  samples := []
  master := []
  drawn := 0

/-- The machine right after the first power-on reset (R29, R161): every register 0, `SEQ` idle, the line released,
an NVM of any content (R165: nothing listed), no bus event and no fault recorded yet (DESIGN CHOICE, log entries 2
and 6). -/
def State.reset : State where
  cfg := Config.atReset
  regs := Regs.reset
  seq := .idle
  bus := { line := .released, hist := [], env := Env.unannounced }
  nvm := []
  frec := []
  agenda := []
  rdata := 0#32
  reads := 0

/-! ## How a step can stop -/

/-- A fault of the machine. There is none: the faults of this spec are completions with a class F error and
refused host accesses, after both of which the block goes on (R147, R149, R38), so each is a next state in which
`FREC` has grown (DEDUCED, log entry 18). -/
inductive Fault where
  deriving DecidableEq, Repr

/-- A refusal of the machine. -/
inductive Refusal where
  /-- Raised by `exec` alone, for a command that has no meaning yet. Safe: nothing is claimed of it. No arm uses
  it: every command has its meaning. -/
  | notModelled (mnemonic : String)
  deriving DecidableEq, Repr

end Sys2Proof.Machine
end

