-- ==== Sys2Proof/Machine/Flags.lean ====
section
/-! DEFINITION. The flags of the block, all of them fields of `STATUS` (10_state.md rule R19), and the error codes
and classes they report (60_exceptions.md rules R143, R144). -/

namespace Sys2Proof.Machine

/-- The code `STATUS.ERRCODE` reports (R143). -/
def CmdError.code : CmdError → Byte
  | .noDevice => 0x01#8
  | .wrongFamily _ => 0x02#8
  | .badChecksum => 0x03#8
  | .verifyMismatch => 0x04#8
  | .illegalCommand _ => 0x10#8
  | .indexRange _ => 0x11#8
  | .tableOverrun _ => 0x12#8
  | .storeFull => 0x13#8
  | .badType _ => 0x14#8
  | .badName => 0x15#8
  | .corruptMarker _ => 0x16#8

/-- The classes of R144: an outcome of a protocol that ran correctly, or a fault. -/
inductive ErrClass where
  | outcome
  | fault
  deriving DecidableEq, Repr

/-- The class of each error (R143). -/
def CmdError.errClass : CmdError → ErrClass
  | .noDevice => .outcome
  | .wrongFamily _ => .outcome
  | .badChecksum => .outcome
  | .verifyMismatch => .outcome
  | .illegalCommand _ => .fault
  | .indexRange _ => .fault
  | .tableOverrun _ => .fault
  | .storeFull => .fault
  | .badType _ => .fault
  | .badName => .fault
  | .corruptMarker _ => .fault

/-- Class F (R144). -/
def CmdError.isFault (e : CmdError) : Bool := e.errClass == .fault

/-- One bit of a word: `2^k` if set. -/
def flagBit (b : Bool) (k : Nat) : Word := if b then 1#32 <<< k else 0#32

/-- The 32-bit word a host reads at offset 0x04 (R19). -/
def Status.word (t : Status) : Word :=
  flagBit t.busy 0 ||| flagBit t.done 1 ||| flagBit t.err 2 ||| flagBit t.fault 3 ||| flagBit t.hazard 4
    ||| (t.errcode.setWidth 32 <<< 8)

/-- The flags at acceptance (R73): `FAULT` and `HAZARD` are kept. -/
def Status.accepted (t : Status) : Status :=
  { t with busy := true, done := false, err := false, errcode := 0x00#8 }

/-- The flags at successful completion (R75). -/
def Status.finished (t : Status) : Status :=
  { t with errcode := 0x00#8, err := false, done := true, busy := false }

/-- The flags at completion with an error (R147): class F also sets the sticky `FAULT`. -/
def Status.failed (t : Status) (e : CmdError) : Status :=
  { t with errcode := e.code, err := true, done := true, busy := false, fault := t.fault || e.isFault }

/-- The flags after a host error (R38). -/
def Status.misused (t : Status) : Status :=
  { t with hazard := true, fault := true }

end Sys2Proof.Machine
end

