-- ==== Sys2Proof/Machine/Ops.lean ====
section
/-! DEFINITION. The named operations over the NVM and the registers (00_scope.md rules R11, R12), and the ways a
command begins and ends: acceptance (R73), successful completion (R75), completion with an error (R147), the
host error (R38) and the reset of the registers (R29). -/

namespace Sys2Proof.Machine

/-! ## The NVM -/

/-- The canonical form: addresses strictly rising. An unlisted address holds no value of its own, so no entry can
equal what it reads as, and two memories of this form are equal exactly when they hold the same bytes
(`Memory.ext_of_lookup`). -/
def Memory.wf : Memory → Bool
  | [] => true
  | [_] => true
  | c :: d :: rest => decide (c.1 < d.1) && Memory.wf (d :: rest)

/-- The byte written last at `a`, if any (R49). -/
def Memory.lookup : Memory → Nat → Option Byte
  | [], _ => none
  | c :: rest, a => if c.1 = a then some c.2 else Memory.lookup rest a

/-- One byte of the NVM: the byte written last, or the cell's initial content, which is any value (R49, R165). -/
def Memory.read (m : Memory) (a : Nat) : Byte :=
  match m.lookup a with
  | some v => v
  | none => Config.freeNvm a

/-- A byte write (R57): it replaces the entry or inserts it in its place. -/
def Memory.store : Memory → Nat → Byte → Memory
  | [], a, v => [(a, v)]
  | c :: rest, a, v =>
    if a < c.1 then (a, v) :: c :: rest
    else if a = c.1 then (a, v) :: rest
    else c :: Memory.store rest a v

/-- Byte writes in their order (R49, R57). -/
def Memory.storeAll (m : Memory) : List Host.Cell → Memory
  | [] => m
  | c :: rest => Memory.storeAll (m.store c.1 c.2) rest

/-- The bytes at `a .. a+n-1`, lowest address first (R56). -/
def Memory.readBytes (m : Memory) (a : Nat) : Nat → List Byte
  | 0 => []
  | n + 1 => m.read a :: Memory.readBytes m (a + 1) n

/-- `MemRead(a, n)` of R11: the bytes as one little-endian number. -/
def memRead (m : Memory) (a n : Nat) : Nat := leNumber (m.readBytes a n)

/-- Bytes laid at consecutive addresses from `a`. -/
def cellsFrom (a : Nat) : List Byte → List Host.Cell
  | [] => []
  | b :: rest => (a, b) :: cellsFrom (a + 1) rest

/-- The byte writes of `MemWrite(a, n, v)` (R11, R57): little-endian, lowest address first. -/
def memWrite (a n v : Nat) : List Host.Cell := cellsFrom a (leBytes n v)

/-! ## Registers -/

/-- `x[TYPE] <- t` (R22). -/
def State.setKeyType (s : State) (t : Byte) : State := { s with regs := { s.regs with keyType := t } }

/-- `x[IDBUF] <- id` (R23). -/
def State.setIdbuf (s : State) (id : Vector Byte 8) : State := { s with regs := { s.regs with idbuf := id } }

/-- `x[RBBUF] <- rb` (R23). -/
def State.setRbbuf (s : State) (rb : Vector Byte 8) : State := { s with regs := { s.regs with rbbuf := rb } }

/-- `x[NAMEBUF] <- nm` (R23). -/
def State.setNamebuf (s : State) (nm : Vector Byte 32) : State := { s with regs := { s.regs with namebuf := nm } }

/-- `x[CRC] <- c` (R25). -/
def State.setCrc (s : State) (c : Byte) : State := { s with regs := { s.regs with crc := c } }

/-- The NVM after byte writes in their order. -/
def State.writeNvm (s : State) (cells : List Host.Cell) : State := { s with nvm := s.nvm.storeAll cells }

/-- The bus after its slots. -/
def State.setBus (s : State) (b : Bus) : State := { s with bus := b }

/-- `LINE_DRIVE <- d` (R20). -/
def Bus.drive (b : Bus) (d : Drive) : Bus := { b with line := d }

/-- `SEQ` is `Busy` (R24). -/
def Seq.isBusy : Seq → Bool
  | .idle => false
  | .busy _ => true

/-- The word of the running command (R24, R147), and the last accepted one when none runs (R18;
DESIGN CHOICE, log entry 15). -/
def State.runningWord (s : State) : Word :=
  match s.seq with
  | .busy w => w
  | .idle => s.regs.cmd

/-! ## The life of a command -/

/-- Acceptance of the command word `w` (R73). -/
def State.accept (s : State) (w : Word) : State :=
  { s with
    regs := { s.regs with cmd := w, status := s.regs.status.accepted }
    seq := .busy w }

/-- `finish(v)` (R75). -/
def State.finish (s : State) (v : Half) : State :=
  { s with
    regs := { s.regs with result := v.setWidth 32, status := s.regs.status.finished }
    bus := s.bus.drive .released
    seq := .idle }

/-- What a completion with error `e` of the command `w` adds to `FREC`: an entry for class F, nothing for class O
(R144, R147). -/
def faultEntries (e : CmdError) (w : Word) : List FaultEntry :=
  if e.isFault then [.command e w] else []

/-- `raise e` (R147): THE completion with an error, the block's one way of taking an exception. There is no handler
and no return (R149): `RESULT` ← 0, `STATUS` reports the code, a class F error is recorded, and the block is idle. -/
def State.raise (s : State) (e : CmdError) : State :=
  { s with
    regs := { s.regs with result := 0#32, status := s.regs.status.failed e }
    frec := s.frec ++ faultEntries e s.runningWord
    bus := s.bus.drive .released
    seq := .idle }

/-- A host error (R38): the access is refused, `HAZARD` and `FAULT` are set, and `FREC` gains the access. -/
def State.hostError (s : State) (a : HostAccess) : State :=
  { s with
    regs := { s.regs with status := s.regs.status.misused }
    frec := s.frec ++ [.hostError a] }

/-- What a reset does whatever was running (R161 items 2 and 4): every register, `SEQ` and `LINE_DRIVE` at its
reset value; `H` and `FREC` kept. -/
def State.resetRegisters (s : State) : State :=
  { s with
    regs := Regs.reset
    seq := .idle
    bus := s.bus.drive .released }

end Sys2Proof.Machine
end

