-- ==== Sys2Proof/Machine/Operands.lean ====
section
/-! DEFINITION. The operands of the commands: the three immediate forms of 30_encoding.md rules R61 and R62, and
the operand registers with the byte and bit order their values have (20_memory.md rules R36, R44, R55). -/

namespace Sys2Proof.Machine

/-! ## Immediate operands (R61, R62: zero-extended) -/

/-- Form `B`: b = `IMM[0]`. -/
def bitOperand (b : Nat) : Bool := b.testBit 0

/-- Form `Y`: v = `IMM[7:0]`. -/
def byteOperand (v : Nat) : Byte := BitVec.ofNat 8 v

/-- Form `H`: n = `IMM[15:0]`. -/
def halfOperand (n : Nat) : Half := BitVec.ofNat 16 n

/-! ## Bit order on the bus (R55, R109: bit 0 first) -/

/-- The bits of a byte, least significant first. -/
def bitsOfByte (v : Byte) : List Bool :=
  [v.getLsbD 0, v.getLsbD 1, v.getLsbD 2, v.getLsbD 3, v.getLsbD 4, v.getLsbD 5, v.getLsbD 6, v.getLsbD 7]

/-- The bits of bytes, byte 0 first, each least significant bit first. -/
def bitsOfBytes : List Byte → List Bool
  | [] => []
  | v :: rest => bitsOfByte v ++ bitsOfBytes rest

/-- The byte whose bits these are, the first one bit 0. -/
def byteOfBits (bits : List Bool) : Byte :=
  match bits with
  | [] => 0#8
  | b :: rest => (if b then 1#8 else 0#8) ||| (byteOfBits rest <<< 1)

/-- One bit as the value a command returns. -/
def bitResult (b : Bool) : Half := if b then 1#16 else 0#16

/-- One byte as the value a command returns. -/
def byteResult (v : Byte) : Half := v.setWidth 16

/-! ## Buffers (R23) -/

/-- Eight bytes as a buffer, byte 0 first. -/
def identityOf (bytes : List Byte) : Vector Byte 8 := Vector.ofFn fun j => bytes.getD j.val 0#8

/-- A name as a buffer, with 0x00 after its bytes (R90). -/
def nameOf (bytes : List Byte) : Vector Byte 32 := Vector.ofFn fun k => bytes.getD k.val 0#8

/-- The identity bytes 0 to 6 of a buffer. -/
def identityBody (id : Vector Byte 8) : List Byte := id.toList.take 7

/-- The least k in 0..31 with `NAMEBUF[k]` = 0x00 (R88), `none` if there is no terminator. -/
def nameLength (nm : Vector Byte 32) : Option Nat := nm.toList.findIdx? (· == 0x00#8)

/-- A payload half as the little-endian value of its four identity bytes, from byte `j` on (R44). -/
def payloadHalf (id : Vector Byte 8) (j : Nat) : Nat := leNumber ((id.toList.drop j).take 4)

end Sys2Proof.Machine
end

