-- ==== Sys2Proof/Machine/Bus.lean ====
section
/-! DEFINITION. The bus slots (42_bus_primitives.md rules R105 to R109, R115, R117) and the draws of the bus
environment (00_scope.md rule R13). A slot drives the line through its waveform and appends one event to `H`. -/

namespace Sys2Proof.Machine

/-! ## Waveforms -/

/-- A stretch of a slot: what the block does with the line, and for how long. -/
abbrev Phase := Drive × Nat

/-- R105: low for T_RSTL, released for T_MSP up to the sample, then until T_RSTH after the release. R105 shows no
recovery and R108 enforces it after resets too, so T_REC follows as a phase of its own (DESIGN CHOICE, log entry
20). -/
def waveReset (t : Timing) : List Phase :=
  [(.low, t.tRstl), (.released, t.tMsp), (.released, t.tRsth - t.tMsp), (.released, t.tRec)]

/-- R106: low for T_W1L or T_W0L, then the recovery T_REC. -/
def waveWrite (t : Timing) (b : Bool) : List Phase :=
  [(.low, if b then t.tW1l else t.tW0l), (.released, t.tRec)]

/-- R107: low for T_RL, the sample at T_MSR and the end at T_SLOT after the slot start, then the recovery T_REC. -/
def waveRead (t : Timing) : List Phase :=
  [(.low, t.tRl), (.released, t.tMsr - t.tRl), (.released, t.tSlot - t.tMsr), (.released, t.tRec)]

/-- R117: low for T_WE_LOW, then T_WE_SETTLE, then the recovery T_REC of R108 as a phase of its own (DESIGN CHOICE,
log entry 20). -/
def waveWePulse (t : Timing) : List Phase :=
  [(.low, t.tWeLow), (.released, t.tWeSettle), (.released, t.tRec)]

/-- R124: a data slot of the clone write, and T_PROG after it. -/
def waveProgram (t : Timing) (b : Bool) : List Phase :=
  waveWrite t b ++ [(.released, t.tProg)]

/-- `LINE_DRIVE` through the phases of a slot (R20). The durations pass unseen: the model has no time (R80;
DEDUCED, log entry 13). -/
def Bus.play (b : Bus) : List Phase → Bus
  | [] => b
  | p :: rest => Bus.play (b.drive p.1) rest

/-- `H <- H ++ [e]` (R27). -/
def Bus.record (b : Bus) (e : Event) : Bus := { b with hist := b.hist ++ [e] }

/-! ## Draws (R13) -/

/-- The environment's next presence answer. -/
def Env.drawPresence (e : Env) : Bool × Env :=
  match e.presence with
  | p :: rest => (p, { e with presence := rest })
  | [] => (Config.freePresence e.drawn, { e with drawn := e.drawn + 1 })

/-- The environment's next read-slot bit. -/
def Env.drawBit (e : Env) : Bool × Env :=
  match e.bits with
  | b :: rest => (b, { e with bits := rest })
  | [] => (Config.freeBit e.drawn, { e with drawn := e.drawn + 1 })

/-- The environment's next line sample. -/
def Env.drawSample (e : Env) : LineSample × Env :=
  match e.samples with
  | x :: rest => (x, { e with samples := rest })
  | [] => (Config.freeSample e.drawn, { e with drawn := e.drawn + 1 })

/-- All the external master does from here on: the announced events, then freely chosen ones, then silence (DEDUCED,
log entry 4). -/
def Env.masterAhead (e : Env) : List MasterEvent := e.master ++ Config.freeMaster e.drawn

/-- The environment after `rest` of the master's events is left. -/
def Env.masterLeft (e : Env) (rest : List MasterEvent) : Env :=
  { e with master := rest, drawn := e.drawn + 1 }

/-! ## Slots of the master role -/

/-- `BusReset()` (R105): the presence draw. -/
def Bus.resetSlot (t : Timing) (b : Bus) : Bool × Bus :=
  let r := b.env.drawPresence
  (r.1, ({ b with env := r.2 }.play (waveReset t)).record (.resetSlot r.1))

/-- `BusWriteBit(v)` (R106). -/
def Bus.writeSlot (t : Timing) (b : Bus) (v : Bool) : Bus :=
  (b.play (waveWrite t v)).record (.writeSlot v)

/-- A data slot of the clone write with its wait T_PROG (R124). -/
def Bus.programSlot (t : Timing) (b : Bus) (v : Bool) : Bus :=
  (b.play (waveProgram t v)).record (.writeSlot v)

/-- `BusReadBit()` (R107): the bit drawn. -/
def Bus.readSlot (t : Timing) (b : Bus) : Bool × Bus :=
  let r := b.env.drawBit
  (r.1, ({ b with env := r.2 }.play (waveRead t)).record (.readSlot r.1))

/-- `BusWEPulse()` (R117). -/
def Bus.wePulse (t : Timing) (b : Bus) : Bus :=
  (b.play (waveWePulse t)).record .wePulse

/-! ## Slots of the slave role (R13, R127 to R130) -/

/-- The line pulled low and let go again. The slave's durations are the device's business (R177). -/
def Bus.pull (b : Bus) : Bus := (b.drive .low).drive .released

/-- What `SlaveSense()` or `SlaveWait()` saw: the block only looks at the line (R13, R127). -/
def Bus.slaveSaw (b : Bus) (e : SlaveEvent) : Bus := b.record (.slaveSaw e)

/-- `SlaveDrivePresence()` (R13): the presence pulse. No recovery T_REC follows it (DESIGN CHOICE, log entry 20). -/
def Bus.slavePresence (b : Bus) : Bus := b.pull.record .slavePresence

/-- `SlaveSendBit(v)` (R13, R130): a 0 holds the line low through the master's sample point, a 1 leaves it
released. No recovery T_REC follows it, after the last bit of a pass either (DESIGN CHOICE, log entry 20). -/
def Bus.slaveBit (b : Bus) (v : Bool) : Bus :=
  (if v then b.drive .released else b.pull).record (.slaveBit v)

/-! ## Sequences of slots -/

/-- Write slots for these bits, in order. -/
def Bus.writeSlots (t : Timing) (b : Bus) : List Bool → Bus
  | [] => b
  | v :: rest => Bus.writeSlots t (b.writeSlot t v) rest

/-- Data slots of the clone write for these bits, in order (R124). -/
def Bus.programSlots (t : Timing) (b : Bus) : List Bool → Bus
  | [] => b
  | v :: rest => Bus.programSlots t (b.programSlot t v) rest

/-- `n` read slots: the bits in the order received. -/
def Bus.readSlots (t : Timing) (b : Bus) : Nat → List Bool × Bus
  | 0 => ([], b)
  | n + 1 =>
    let r := b.readSlot t
    let q := Bus.readSlots t r.2 n
    (r.1 :: q.1, q.2)

/-- `BusWriteByte(v)` (R109): least significant bit first. -/
def Bus.writeByte (t : Timing) (b : Bus) (v : Byte) : Bus := b.writeSlots t (bitsOfByte v)

/-- `BusReadByte()` (R109): the first bit received is bit 0. -/
def Bus.readByte (t : Timing) (b : Bus) : Byte × Bus :=
  let r := b.readSlots t 8
  (byteOfBits r.1, r.2)

/-- `n` bytes received, byte 0 first (R55). -/
def Bus.readBytes (t : Timing) (b : Bus) : Nat → List Byte × Bus
  | 0 => ([], b)
  | n + 1 =>
    let r := b.readByte t
    let q := Bus.readBytes t r.2 n
    (r.1 :: q.1, q.2)

/-! ## Bus command bytes (R8, R72) -/

/-- `CMD_READ_ROM`. -/
def cmdReadRom : Byte := 0x33#8

/-- `CMD_SKIP_ROM` (PRESUMED by the spec, D22; log entry 16). -/
def cmdSkipRom : Byte := 0xCC#8

/-- `CMD_WRITE_ENABLE`. -/
def cmdWriteEnable : Byte := 0xD1#8

/-- `CMD_LOAD_BUFFER`. -/
def cmdLoadBuffer : Byte := 0xD5#8

/-- `WriteEnableSeq()` (R115): the byte, the pulse or both, as `WE_FORM` says. -/
def Bus.writeEnableSeq (c : Config) (b : Bus) : Bus :=
  match c.weForm with
  | .bytePlusPulse => (b.writeByte c.timing cmdWriteEnable).wePulse c.timing
  | .byteOnly => b.writeByte c.timing cmdWriteEnable
  | .pulseOnly => b.wePulse c.timing

end Sys2Proof.Machine
end

