-- ==== Sys2Proof/Machine/BusPrimitives.lean ====
section
/-! DEFINITION. The bus primitive commands (42_bus_primitives.md rules R110 to R116). -/

namespace Sys2Proof.Machine

/-- `OW_RESET` (R110): RESULT is the presence draw. -/
def execOwReset (s : State) : Host.Outcome State Fault Refusal :=
  let r := s.bus.resetSlot s.cfg.timing
  .next ((s.setBus r.2).finish (bitResult r.1))

/-- `OW_WRITE_BIT b` (R111). -/
def execOwWriteBit (b : Nat) (s : State) : Host.Outcome State Fault Refusal :=
  .next ((s.setBus (s.bus.writeSlot s.cfg.timing (bitOperand b))).finish 0#16)

/-- `OW_READ_BIT` (R112). -/
def execOwReadBit (s : State) : Host.Outcome State Fault Refusal :=
  let r := s.bus.readSlot s.cfg.timing
  .next ((s.setBus r.2).finish (bitResult r.1))

/-- `OW_WRITE_BYTE v` (R113). -/
def execOwWriteByte (v : Nat) (s : State) : Host.Outcome State Fault Refusal :=
  .next ((s.setBus (s.bus.writeByte s.cfg.timing (byteOperand v))).finish 0#16)

/-- `OW_READ_BYTE` (R114). -/
def execOwReadByte (s : State) : Host.Outcome State Fault Refusal :=
  let r := s.bus.readByte s.cfg.timing
  .next ((s.setBus r.2).finish (byteResult r.1))

/-- `OW_WRITE_ENABLE` (R116). -/
def execOwWriteEnable (s : State) : Host.Outcome State Fault Refusal :=
  .next ((s.setBus (s.bus.writeEnableSeq s.cfg)).finish 0#16)

end Sys2Proof.Machine
end

