-- ==== Sys2Proof/Machine/Crc8.lean ====
section
/-! DEFINITION. The CRC-8 generator (44_crc8.md): the function of rules R136 and R137 and the commands `CRC_CLEAR`,
`CRC_UPDATE` and `CRC_SEAL`. -/

namespace Sys2Proof.Machine

/-- The loop of R136 with `n` bits of `b` still to fold. -/
def crc8Bits : Nat → Byte → Byte → Byte
  | 0, c, _ => c
  | n + 1, c, b =>
    let mix := c.getLsbD 0 ^^ b.getLsbD 0
    crc8Bits n (if mix then (c >>> 1) ^^^ 0x8C#8 else c >>> 1) (b >>> 1)

/-- `crc8_step(c, b)` (R136; polynomial PRESUMED by the spec, D20, log entry 16): one byte folded in, least
significant bit first. -/
def crc8Step (c b : Byte) : Byte := crc8Bits 8 c b

/-- The bytes folded in order, starting from `c`. -/
def crc8From : Byte → List Byte → Byte
  | c, [] => c
  | c, b :: rest => crc8From (crc8Step c b) rest

/-- `crc8(s)` (R137). -/
def crc8 (s : List Byte) : Byte := crc8From 0x00#8 s

/-- `CRC_CLEAR` (R138). -/
def execCrcClear (s : State) : Host.Outcome State Fault Refusal :=
  .next ((s.setCrc 0x00#8).finish 0#16)

/-- `CRC_UPDATE v` (R139). -/
def execCrcUpdate (v : Nat) (s : State) : Host.Outcome State Fault Refusal :=
  let c := crc8Step s.regs.crc (byteOperand v)
  .next ((s.setCrc c).finish (byteResult c))

/-- `CRC_SEAL` (R140): the CRC of identity bytes 0 to 6 becomes byte 7. -/
def execCrcSeal (s : State) : Host.Outcome State Fault Refusal :=
  let c := crc8 (identityBody s.regs.idbuf)
  .next ((s.setIdbuf (s.regs.idbuf.set 7 c)).finish (byteResult c))

end Sys2Proof.Machine
end

