-- ==== Sys2Proof/Machine/BusProtocols.lean ====
section
/-! DEFINITION. The bus protocol commands (43_bus_protocols.md): reading an identity, the clone write, and one pass
of slave emulation. -/

namespace Sys2Proof.Machine

/-! ## Reading an identity -/

/-- The bus side of `read_rom_raw()` (R120): the eight bytes received, `none` without presence. -/
def Bus.readRomRaw (t : Timing) (b : Bus) : Option (Vector Byte 8) × Bus :=
  let r := b.resetSlot t
  if r.1 then
    let q := Bus.readBytes t (r.2.writeByte t cmdReadRom) 8
    (some (identityOf q.1), q.2)
  else (none, r.2)

/-- `read_rom_raw()` (R120): `RBBUF` is written only when presence was seen. -/
def State.readRomRaw (s : State) : Bool × State :=
  match s.bus.readRomRaw s.cfg.timing with
  | (some rb, b) => (true, (s.setBus b).setRbbuf rb)
  | (none, b) => (false, s.setBus b)

/-- The checks of `OW_READ_ID` on the bytes in `RBBUF` (R121, R122): family first, then checksum. -/
def State.checkIdentity (s : State) : State :=
  let rb := s.regs.rbbuf
  if rb[0] ≠ s.cfg.familyCode then s.raise (.wrongFamily rb[0])
  else if crc8 (identityBody rb) ≠ rb[7] then s.raise .badChecksum
  else (s.setIdbuf rb).finish 0#16

/-- `OW_READ_ID` (R121). -/
def execOwReadId (s : State) : Host.Outcome State Fault Refusal :=
  let r := s.readRomRaw
  .next (if r.1 then r.2.checkIdentity else r.2.raise .noDevice)

/-- `OW_READ_RAW` (R123). -/
def execOwReadRaw (s : State) : Host.Outcome State Fault Refusal :=
  let r := s.readRomRaw
  .next (if r.1 then r.2.finish 0#16 else r.2.raise .noDevice)

/-! ## Clone write -/

/-- The 64 data bits of the clone write (R124): identity bytes 0 to 6 and the fresh CRC, each least significant bit
first, inverted if `WRITE_DATA_INVERT`. -/
def cloneBits (c : Config) (id : Vector Byte 8) : List Bool :=
  (bitsOfBytes (identityBody id ++ [crc8 (identityBody id)])).map (fun v => v ^^ c.writeDataInvert)

/-- `clone_seq()` (R124): the presence of its reset, and the bus after it. -/
def Bus.cloneSeq (c : Config) (id : Vector Byte 8) (b : Bus) : Bool × Bus :=
  let r := b.resetSlot c.timing
  if r.1 then
    let b1 := (r.2.writeByte c.timing cmdSkipRom).writeEnableSeq c
    let b2 := (b1.writeByte c.timing cmdLoadBuffer).programSlots c.timing (cloneBits c id)
    (true, b2.writeEnableSeq c)
  else (false, r.2)

/-- The read-back of `OW_CLONE_WRITE` (R125): all 8 bytes of `RBBUF` against all 8 of `IDBUF`. -/
def State.cloneVerify (s : State) : State :=
  let r := s.readRomRaw
  if r.1 then
    if r.2.regs.rbbuf ≠ r.2.regs.idbuf then r.2.raise .verifyMismatch else r.2.finish 0#16
  else r.2.raise .noDevice

/-- `OW_CLONE_WRITE` (R125). -/
def execOwCloneWrite (s : State) : Host.Outcome State Fault Refusal :=
  let r := s.bus.cloneSeq s.cfg s.regs.idbuf
  .next (if r.1 then (s.setBus r.2).cloneVerify else (s.setBus r.2).raise .noDevice)

/-! ## Slave emulation -/

/-- Where a transaction of R128 stands: bit `i` of the command byte is next, or bit `k` of the identity is. -/
inductive EmuPhase where
  | command (i : Nat) (cmd : Byte)
  | identity (k : Nat)
  deriving DecidableEq, Repr

/-- How a pass of R128 goes out: with a result, in a wait for a master that has stopped (R133), or never, because the
master restarts it without end (R132; log entry 4). -/
inductive EmuEnd where
  | code (v : Half)
  | waiting
  | endless
  deriving DecidableEq, Repr

/-- The steps of a pass of R128: what the block sees and does on the line. -/
inductive SlaveAction where
  | saw (e : SlaveEvent)
  | presence
  | bit (b : Bool)
  deriving DecidableEq, Repr

/-- A pass of R128: what the block sees and does, the master's events it leaves, and how it goes out. -/
structure EmuRun where
  actions : List SlaveAction
  rest : List MasterEvent
  ending : EmuEnd
  deriving DecidableEq, Repr

/-- The run with these actions before it. -/
def EmuRun.after (r : EmuRun) (as : List SlaveAction) : EmuRun := { r with actions := as ++ r.actions }

/-- The code `OTHER_COMMAND` with the command byte in `RESULT[15:8]` (R131). -/
def otherCommand (cmd : Byte) : Half := 0x0001#16 ||| (cmd.setWidth 16 <<< 8)

/-- Bit `k` of the 64 identity bits, byte 0 first, each byte least significant bit first (R130). -/
def identityBit (id : Vector Byte 8) (k : Nat) : Bool := (bitsOfBytes id.toList).getD k true

/-- The command byte after its bit `i` came as a short slot (1) or a long one (0) (R129). -/
def commandWith (cmd : Byte) (i : Nat) (short : Bool) : Byte :=
  if short then cmd ||| (1#8 <<< i) else cmd

/-- The master sends nothing more (R133): `TIMEOUT` if `EMU_SLOT_TIMEOUT` is set, no end otherwise. -/
def emuSilence (c : Config) (rest : List MasterEvent) : EmuRun :=
  match c.emuSlotTimeout with
  | some _ => { actions := [.saw .timeout], rest := rest, ending := .code 0x0003#16 }
  | none => { actions := [], rest := rest, ending := .waiting }

/-- What a reset pulse starts (R128, R132): the block sees it and drives presence. -/
def emuRestart : List SlaveAction := [.saw .reset, .presence]

/-- The transactions of R128 from a phase on, over what the master sends: a reset starts a new one (R132), a short
or long slot carries the next bit. -/
def emuRun (c : Config) (id : Vector Byte 8) : EmuPhase → List MasterEvent → EmuRun
  | _, [] => emuSilence c []
  | _, .silent :: rest => emuSilence c rest
  | _, .resets :: rest => { actions := [], rest := .resets :: rest, ending := .endless }
  | _, .reset :: rest => (emuRun c id (.command 0 0#8) rest).after emuRestart
  | .command i cmd, .short :: rest =>
    let cmd' := commandWith cmd i true
    if i < 7 then (emuRun c id (.command (i + 1) cmd') rest).after [.saw .short]
    else if cmd' = cmdReadRom then (emuRun c id (.identity 0) rest).after [.saw .short]
    else { actions := [.saw .short], rest := rest, ending := .code (otherCommand cmd') }
  | .command i cmd, .long :: rest =>
    let cmd' := commandWith cmd i false
    if i < 7 then (emuRun c id (.command (i + 1) cmd') rest).after [.saw .long]
    else if cmd' = cmdReadRom then (emuRun c id (.identity 0) rest).after [.saw .long]
    else { actions := [.saw .long], rest := rest, ending := .code (otherCommand cmd') }
  | .identity k, .short :: rest =>
    let as := [.saw .short, .bit (identityBit id k)]
    if k < 63 then (emuRun c id (.identity (k + 1)) rest).after as
    else { actions := as, rest := rest, ending := .code 0x0002#16 }
  | .identity k, .long :: rest =>
    let as := [.saw .long, .bit (identityBit id k)]
    if k < 63 then (emuRun c id (.identity (k + 1)) rest).after as
    else { actions := as, rest := rest, ending := .code 0x0002#16 }

/-- `SlaveSaw` of a line sample (R27). -/
def sampleSeen : LineSample → SlaveEvent
  | .idle => .idle
  | .reset => .reset
  | .short => .short
  | .long => .long

/-- A whole pass of `OW_EMULATE_POLL` (R128): the first look, and the transactions if it saw a reset. -/
def emuPass (c : Config) (id : Vector Byte 8) (e : Env) : EmuRun × Env :=
  let x := e.drawSample
  if x.1 = .reset then
    let r := (emuRun c id (.command 0 0#8) x.2.masterAhead).after emuRestart
    (r, x.2.masterLeft r.rest)
  else ({ actions := [.saw (sampleSeen x.1)], rest := x.2.master, ending := .code 0x0000#16 }, x.2)

/-- One action on the line, with its event in `H` (R13, R27). -/
def Bus.act (b : Bus) : SlaveAction → Bus
  | .saw e => b.slaveSaw e
  | .presence => b.slavePresence
  | .bit v => b.slaveBit v

/-- Actions on the line, in order. -/
def Bus.actAll (b : Bus) : List SlaveAction → Bus
  | [] => b
  | a :: rest => Bus.actAll (b.act a) rest

/-- The event an action leaves in `H` (R27). -/
def SlaveAction.event : SlaveAction → Event
  | .saw e => .slaveSaw e
  | .presence => .slavePresence
  | .bit v => .slaveBit v

/-- The bus after the actions of a pass, with the environment it leaves. -/
def Bus.emulated (b : Bus) (as : List SlaveAction) (e : Env) : Bus := { b.actAll as with env := e }

/-- `OW_EMULATE_POLL` (R128). If the master stops and there is no timeout the controller has no step: the block
stays as it is, `BUSY`, until a reset (R74, R133, R169; DESIGN CHOICE, log entry 9). The same holds while the master
restarts the pass without end (R132; log entry 4). -/
def execOwEmulatePoll (s : State) : Host.Outcome State Fault Refusal :=
  let r := emuPass s.cfg s.regs.idbuf s.bus.env
  .next (match r.1.ending with
    | .code v => (s.setBus (s.bus.emulated r.1.actions r.2)).finish v
    | .waiting => s
    | .endless => s)

end Sys2Proof.Machine
end

