-- ==== Sys2Proof/Machine/KeyStore.lean ====
section
/-! DEFINITION. The key-store slot manager: the slot layout (20_memory.md rules R40 to R46), the walks and the
commands of 41_key_store.md. Every read and every check of a command comes before its first write, so a command
is a plan of byte writes in order, or an error and no write (R82, R94, R98). -/

namespace Sys2Proof.Machine

/-! ## Layout -/

/-- Byte offset of physical slot `p` (R41). -/
def slotAddr (p : Nat) : Nat := 2 + 41 * p

/-- `is_tomb(m)` = m[7] (R46). -/
def isTomb (m : Byte) : Bool := m.getLsbD 7

/-- `runlen(m)` = m[6:0] (R46). -/
def runlen (m : Byte) : Nat := (m &&& 0x7F#8).toNat

/-- `marker(L)` = 0x80 | L (R46). -/
def marker (l : Nat) : Byte := 0x80#8 ||| BitVec.ofNat 8 l

/-- The live-key counter (R40). -/
def liveCount (m : Memory) : Nat := memRead m 0 2

/-- The type/marker byte of slot `p` (R42). -/
def markerAt (m : Memory) (p : Nat) : Byte := m.read (slotAddr p)

/-! ## Walks -/

/-- The loop of `resolve(i)` (R81) at slot `p` with `k` live slots counted. Each pass that goes on moves `p` up, so
`nslots + 1` passes always reach an answer. -/
def resolveFrom (m : Memory) (nslots i : Nat) : (passes p k : Nat) → Except CmdError Nat
  | 0, p, _ => .error (.tableOverrun p)
  | n + 1, p, k =>
    if nslots ≤ p then .error (.tableOverrun p)
    else if isTomb (markerAt m p) then
      if runlen (markerAt m p) = 0 then .error (.corruptMarker p)
      else resolveFrom m nslots i n (p + runlen (markerAt m p)) k
    else if k = i then .ok p
    else resolveFrom m nslots i n (p + 1) (k + 1)

/-- `resolve(i)` (R81): the physical slot of logical index `i`. -/
def resolve (m : Memory) (nslots i : Nat) : Except CmdError Nat :=
  resolveFrom m nslots i (nslots + 1) 0 0

/-- `logical_end()` (R83): one past the slot of the last live record. -/
def logicalEnd (m : Memory) (nslots : Nat) : Except CmdError Nat :=
  if liveCount m = 0 then .ok 0
  else
    match resolve m nslots (liveCount m - 1) with
    | .ok p => .ok (p + 1)
    | .error e => .error e

/-- The scan of `first_tomb` (R85) over `n` slots from `p` on. -/
def firstTombFrom (m : Memory) : (n p : Nat) → Option Nat
  | 0, _ => none
  | n + 1, p => if isTomb (markerAt m p) then some p else firstTombFrom m n (p + 1)

/-- `first_tomb(LE)` (R85): the first tombstoned slot below `le`. -/
def firstTomb (m : Memory) (le : Nat) : Option Nat := firstTombFrom m le 0

/-- `logical_of(p)` (R86): the number of live slots below `p`. -/
def logicalOf (m : Memory) : Nat → Nat
  | 0 => 0
  | p + 1 => logicalOf m p + if isTomb (markerAt m p) then 0 else 1

/-! ## Plans -/

/-- What a key-store command that passed its checks does: its NVM byte writes in order, and its result. -/
structure StorePlan where
  writes : List Host.Cell
  result : Nat
  deriving DecidableEq, Repr

/-- A command that passed its checks writes and finishes. One that failed a check raises, with nothing written. -/
def State.carryOut (s : State) (r : Except CmdError StorePlan) : State :=
  match r with
  | .ok plan => (s.writeNvm plan.writes).finish (BitVec.ofNat 16 plan.result)
  | .error e => s.raise e

/-! ## KS_COUNT, KS_SET_COUNT, KS_RESOLVE -/

/-- `KS_COUNT` (R89). -/
def execKsCount (s : State) : Host.Outcome State Fault Refusal :=
  .next (s.finish (BitVec.ofNat 16 (liveCount s.nvm)))

/-- The plan of `KS_SET_COUNT n` (R101): the counter, unchecked. -/
def setCountPlan (n : Nat) : StorePlan where
  writes := memWrite 0 2 n
  result := n

/-- `KS_SET_COUNT n` (R101). -/
def execKsSetCount (n : Nat) (s : State) : Host.Outcome State Fault Refusal :=
  .next (s.carryOut (.ok (setCountPlan n)))

/-- The index check of R87, then `resolve(n)` (R90, R104). -/
def resolveIndex (m : Memory) (nslots n : Nat) : Except CmdError Nat :=
  if liveCount m ≤ n then .error (.indexRange n) else resolve m nslots n

/-- `KS_RESOLVE n` (R104). -/
def execKsResolve (n : Nat) (s : State) : Host.Outcome State Fault Refusal :=
  .next (match resolveIndex s.nvm s.cfg.nslots n with
    | .ok p => s.finish (BitVec.ofNat 16 p)
    | .error e => s.raise e)

/-! ## KS_GET -/

/-- The name loop of R90: up to `n` bytes from `a` on, to the first 0x00 and with it. -/
def readName (m : Memory) : (n a : Nat) → List Byte
  | 0, _ => []
  | n + 1, a => if m.read a = 0x00#8 then [0x00#8] else m.read a :: readName m n (a + 1)

/-- The record of slot `p` in the operand registers (R90). -/
def State.loadRecord (s : State) (p : Nat) : State :=
  ((s.setKeyType (markerAt s.nvm p)).setNamebuf (nameOf (readName s.nvm 32 (slotAddr p + 1)))).setIdbuf
    (identityOf (s.nvm.readBytes (slotAddr p + 33) 8))

/-- `KS_GET n` (R90). -/
def execKsGet (n : Nat) (s : State) : Host.Outcome State Fault Refusal :=
  .next (match resolveIndex s.nvm s.cfg.nslots n with
    | .ok p => (s.loadRecord p).finish (BitVec.ofNat 16 p)
    | .error e => s.raise e)

/-! ## KS_INSERT -/

/-- The byte writes of `write_record(p)` (R88), with the name of length `n`: type, name with its terminator, the two
payload halves. -/
def recordWrites (r : Regs) (n p : Nat) : List Host.Cell :=
  memWrite (slotAddr p) 1 r.keyType.toNat
    ++ cellsFrom (slotAddr p + 1) (r.namebuf.toList.take (n + 1))
    ++ memWrite (slotAddr p + 33) 4 (payloadHalf r.idbuf 0)
    ++ memWrite (slotAddr p + 37) 4 (payloadHalf r.idbuf 4)

/-- The one-byte writes of boundary markers (R92, R94). -/
def markWrites : List (Nat × Nat) → List Host.Cell
  | [] => []
  | (q, l) :: rest => memWrite (slotAddr q) 1 (marker l).toNat ++ markWrites rest

/-- Where an insert puts its record (R91 to R93): the slot, the logical index, and the boundary markers. -/
structure InsertChoice where
  slot : Nat
  index : Nat
  marks : List (Nat × Nat)
  deriving DecidableEq, Repr

/-- First fit below the logical end `le` (R91, R92, R93): append at `le`, consume a run of one, or shrink a longer
run; with the checks of R94 on the run. -/
def chooseBelow (c : Config) (m : Memory) (le : Nat) : Except CmdError InsertChoice :=
  match firstTomb m le with
  | none =>
    if le = c.nslots then .error .storeFull
    else .ok { slot := le, index := liveCount m, marks := [] }
  | some h =>
    let l := runlen (markerAt m h)
    if l = 0 then .error (.corruptMarker h)
    else if le < h + l + 1 then .error (.corruptMarker h)
    else if l = 1 then .ok { slot := h, index := h, marks := [] }
    else
      match c.insertRunEnd with
      | .head => .ok { slot := h, index := h, marks := [(h + 1, l - 1), (h + l - 1, l - 1)] }
      | .tail => .ok { slot := h + l - 1, index := h, marks := [(h, l - 1), (h + l - 2, l - 1)] }

/-- Where `KS_INSERT` puts its record (R94): first fit below the logical end of the table as it stands. -/
def chooseSlot (c : Config) (m : Memory) : Except CmdError InsertChoice :=
  match logicalEnd m c.nslots with
  | .error e => .error e
  | .ok le => chooseBelow c m le

/-- The plan of `KS_INSERT` (R94): markers, then the counter, then the record. -/
def insertPlan (c : Config) (r : Regs) (m : Memory) : Except CmdError StorePlan :=
  if isTomb r.keyType then .error (.badType r.keyType)
  else
    match nameLength r.namebuf with
    | none => .error .badName
    | some n =>
      match chooseSlot c m with
      | .error e => .error e
      | .ok x =>
        .ok { writes := markWrites x.marks ++ memWrite 0 2 ((liveCount m + 1) % 65536) ++ recordWrites r n x.slot
              result := x.index }

/-- `KS_INSERT` (R94). -/
def execKsInsert (s : State) : Host.Outcome State Fault Refusal :=
  .next (s.carryOut (insertPlan s.cfg s.regs s.nvm))

/-! ## KS_DELETE -/

/-- The left half of `neighbours` (R97): the length of the run that ends at `p - 1`, 0 if there is none. -/
def leftRun (m : Memory) (p : Nat) : Except CmdError Nat :=
  if p = 0 then .ok 0
  else if isTomb (markerAt m (p - 1)) then
    if runlen (markerAt m (p - 1)) = 0 then .error (.corruptMarker (p - 1))
    else if p < runlen (markerAt m (p - 1)) then .error (.corruptMarker (p - 1))
    else .ok (runlen (markerAt m (p - 1)))
  else .ok 0

/-- The right half of `neighbours` (R97): the length of the run that begins at `p + 1`, 0 if there is none below
the logical end. -/
def rightRun (m : Memory) (p le : Nat) : Except CmdError Nat :=
  if p + 1 < le then
    if isTomb (markerAt m (p + 1)) then
      if runlen (markerAt m (p + 1)) = 0 then .error (.corruptMarker (p + 1))
      else if le < p + runlen (markerAt m (p + 1)) + 2 then .error (.corruptMarker (p + 1))
      else .ok (runlen (markerAt m (p + 1)))
    else .ok 0
  else .ok 0

/-- `neighbours(p, LE)` (R97): the left run first, then the right one. -/
def neighbours (m : Memory) (p le : Nat) : Except CmdError (Nat × Nat) :=
  match leftRun m p with
  | .error e => .error e
  | .ok l =>
    match rightRun m p le with
    | .error e => .error e
    | .ok r => .ok (l, r)

/-- The merge writes of R98 and R99: the new head, then the new tail. -/
def mergeWrites (p l r : Nat) : List Host.Cell :=
  if l = 0 ∧ r = 0 then []
  else memWrite (slotAddr (p - l)) 1 (marker (l + 1 + r)).toNat
    ++ memWrite (slotAddr (p + r)) 1 (marker (l + 1 + r)).toNat

/-- The plan of `KS_DELETE n` (R98): the freed marker, then the counter, then the merge. -/
def deletePlan (nslots : Nat) (m : Memory) (n : Nat) : Except CmdError StorePlan :=
  if liveCount m ≤ n then .error (.indexRange n)
  else
    match logicalEnd m nslots with
    | .error e => .error e
    | .ok le =>
      match resolve m nslots n with
      | .error e => .error e
      | .ok p =>
        match neighbours m p le with
        | .error e => .error e
        | .ok (l, r) =>
          .ok { writes := memWrite (slotAddr p) 1 (marker 1).toNat ++ memWrite 0 2 (liveCount m - 1)
                  ++ mergeWrites p l r
                result := p }

/-- `KS_DELETE n` (R98). -/
def execKsDelete (n : Nat) (s : State) : Host.Outcome State Fault Refusal :=
  .next (s.carryOut (deletePlan s.cfg.nslots s.nvm n))

end Sys2Proof.Machine
end

