-- ==== Sys2Proof/Machine/System.lean ====
section
/-! DEFINITION. The system command (40_system.md). -/

namespace Sys2Proof.Machine

/-- `NOP` (R76): `finish(0)`. -/
def execNop (s : State) : Host.Outcome State Fault Refusal :=
  .next (s.finish 0#16)

end Sys2Proof.Machine
end

