-- ==== Sys2Proof/Machine/Dispatch.lean ====
section
/-! DEFINITION. The meaning of each command (40_system.md rule R74), one arm per row of the opcode map. -/

namespace Sys2Proof.Machine

def exec (i : Instr) (s : State) : Host.Outcome State Fault Refusal :=
  match i with
  | .nop => Sys2Proof.Machine.execNop s
  | .owReset => Sys2Proof.Machine.execOwReset s
  | .owWriteBit b => Sys2Proof.Machine.execOwWriteBit b s
  | .owReadBit => Sys2Proof.Machine.execOwReadBit s
  | .owWriteByte v => Sys2Proof.Machine.execOwWriteByte v s
  | .owReadByte => Sys2Proof.Machine.execOwReadByte s
  | .owWriteEnable => Sys2Proof.Machine.execOwWriteEnable s
  | .owReadId => Sys2Proof.Machine.execOwReadId s
  | .owReadRaw => Sys2Proof.Machine.execOwReadRaw s
  | .owCloneWrite => Sys2Proof.Machine.execOwCloneWrite s
  | .owEmulatePoll => Sys2Proof.Machine.execOwEmulatePoll s
  | .crcClear => Sys2Proof.Machine.execCrcClear s
  | .crcUpdate v => Sys2Proof.Machine.execCrcUpdate v s
  | .crcSeal => Sys2Proof.Machine.execCrcSeal s
  | .ksCount => Sys2Proof.Machine.execKsCount s
  | .ksGet n => Sys2Proof.Machine.execKsGet n s
  | .ksInsert => Sys2Proof.Machine.execKsInsert s
  | .ksDelete n => Sys2Proof.Machine.execKsDelete n s
  | .ksSetCount n => Sys2Proof.Machine.execKsSetCount n s
  | .ksResolve n => Sys2Proof.Machine.execKsResolve n s

end Sys2Proof.Machine
end

