-- ==== Sys2Proof/Machine/HostPort.lean ====
section
/-! DEFINITION. The register block as the host reaches it: the register map (10_state.md rule R17), the legal
accesses (20_memory.md rule R35), byte order (R36), side effects (R37), host errors (R38), reads while busy (R39). -/

namespace Sys2Proof.Machine

/-! ## The register map -/

/-- The registers of R17. -/
inductive RegName where
  | cmd
  | status
  | result
  | keyType
  | idbuf
  | rbbuf
  | namebuf
  | crc
  deriving DecidableEq, Repr

/-- The host access column of R17. -/
inductive RegAccess where
  | command
  | readOnly
  | readWrite
  deriving DecidableEq, Repr

/-- A row of R17: a register, its byte range, and its host access. -/
structure RegSpan where
  name : RegName
  first : Nat
  size : Nat
  access : RegAccess
  deriving DecidableEq, Repr

/-- The register map of R17. Offsets 0x0D to 0x0F and from 0x41 up belong to no register. -/
def registerMap : List RegSpan :=
  [ ⟨.cmd, 0x00, 4, .command⟩,
    ⟨.status, 0x04, 4, .readOnly⟩,
    ⟨.result, 0x08, 4, .readOnly⟩,
    ⟨.keyType, 0x0C, 1, .readWrite⟩,
    ⟨.idbuf, 0x10, 8, .readWrite⟩,
    ⟨.rbbuf, 0x18, 8, .readOnly⟩,
    ⟨.namebuf, 0x20, 32, .readWrite⟩,
    ⟨.crc, 0x40, 1, .readOnly⟩ ]

/-- The register whose byte range holds all `width` bytes from offset `off` on (R35). -/
def spanAt (off width : Nat) : Option RegSpan :=
  registerMap.find? fun r => decide (r.first ≤ off) && decide (off + width ≤ r.first + r.size)

/-- The width is 1, 2 or 4 bytes and the offset a multiple of it (R35). -/
def aligned (off width : Nat) : Bool :=
  (width == 1 || width == 2 || width == 4) && off % width == 0

/-- The register a legal read names (R35); `none` is a host error. -/
def readTarget (off width : Nat) : Option RegSpan :=
  if aligned off width then spanAt off width else none

/-- The register a legal write names (R35); `none` is a host error. -/
def writeTarget (busy : Bool) (off width : Nat) : Option RegSpan :=
  match readTarget off width with
  | none => none
  | some r =>
    if busy then none
    else
      match r.access with
      | .readOnly => none
      | .readWrite => some r
      | .command => if width = 4 then some r else none

/-! ## Bytes of registers (R36) -/

/-- Byte `k` of a 32-bit word, little-endian. -/
def wordByte (w : Word) (k : Nat) : Byte := w.extractLsb' (8 * k) 8

/-- Byte `k` of a register. -/
def Regs.byteOf (r : Regs) (name : RegName) (k : Nat) : Byte :=
  match name with
  | .cmd => wordByte r.cmd k
  | .status => wordByte r.status.word k
  | .result => wordByte r.result k
  | .keyType => r.keyType
  | .idbuf => r.idbuf.toList.getD k 0#8
  | .rbbuf => r.rbbuf.toList.getD k 0#8
  | .namebuf => r.namebuf.toList.getD k 0#8
  | .crc => r.crc

/-- The bytes of a register from byte `k` on. -/
def Regs.bytesOf (r : Regs) (name : RegName) (k : Nat) : Nat → List Byte
  | 0 => []
  | n + 1 => r.byteOf name k :: Regs.bytesOf r name (k + 1) n

/-- The value a read of `width` bytes from byte `k` of a register gives. -/
def Regs.valueOf (r : Regs) (name : RegName) (k width : Nat) : Word :=
  BitVec.ofNat 32 (leNumber (r.bytesOf name k width))

/-- A byte stored into a register the host may write (R37). `CMD` is not written by bytes, and the others are
read-only. -/
def Regs.setByte (r : Regs) (name : RegName) (k : Nat) (v : Byte) : Regs :=
  match name with
  | .cmd => r
  | .status => r
  | .result => r
  | .keyType => { r with keyType := v }
  | .idbuf => { r with idbuf := r.idbuf.set! k v }
  | .rbbuf => r
  | .namebuf => { r with namebuf := r.namebuf.set! k v }
  | .crc => r

/-- Bytes stored into a register from byte `k` on. -/
def Regs.setBytes (r : Regs) (name : RegName) (k : Nat) : List Byte → Regs
  | [] => r
  | v :: rest => Regs.setBytes (r.setByte name k v) name (k + 1) rest

/-! ## Accesses -/

/-- The data lines after a read (R36, R38). -/
def State.deliver (s : State) (v : Word) : State := { s with rdata := v }

/-- Any value of `width` bytes (R39): a free value. -/
def freeReadValue (s : State) (width : Nat) : Word :=
  BitVec.ofNat 32 ((Config.freeRead s.reads).toNat % 2 ^ (8 * width))

/-- A read has returned a free value. The draws of the bus are numbered apart from it (`Env.drawn`), so a pass of
`OW_EMULATE_POLL` that waits keeps its draws whatever the host reads, and stays `BUSY` (R133, R160, R169; DESIGN
CHOICE, log entry 5). -/
def State.advanceReads (s : State) : State := { s with reads := s.reads + 1 }

/-- A host read that is a host error (R38): refused, and it returns 0. -/
def State.refuseRead (s : State) (a : HostAccess) : State := (s.hostError a).deliver 0#32

/-- A host read at a register offset: the value (R36), any value for a register other than `STATUS` while busy
(R39), 0 for a host error (R38). -/
def State.hostRead (s : State) (a : HostAccess) (off width : Nat) : State :=
  match readTarget off width with
  | none => s.refuseRead a
  | some r =>
    if s.regs.status.busy && r.name != .status then
      (s.deliver (freeReadValue s width)).advanceReads
    else s.deliver (s.regs.valueOf r.name (off - r.first) width)

/-- A host write at a register offset: a command issue (R73), bytes stored (R37), or a host error (R38). -/
def State.hostWrite (s : State) (a : HostAccess) (off width : Nat) (v : Word) : State :=
  match writeTarget s.regs.status.busy off width with
  | none => s.hostError a
  | some r =>
    match r.access with
    | .command => s.accept v
    | .readWrite => { s with regs := s.regs.setBytes r.name (off - r.first) (leBytes width v.toNat) }
    | .readOnly => s.hostError a

/-- A host access at a host byte address (R17). One that starts below `BASE` and reaches `BASE` does not lie inside one
register, so it is a host error (R35, R38). One that ends below `BASE` is not the block's: nothing happens (DEDUCED,
log entry 14). -/
def State.hostAccess (s : State) (a : HostAccess) : State :=
  match a with
  | .read addr width =>
    if s.cfg.base ≤ addr then s.hostRead a (addr - s.cfg.base) width
    else if s.cfg.base < addr + width then s.refuseRead a
    else s
  | .write addr width v =>
    if s.cfg.base ≤ addr then s.hostWrite a (addr - s.cfg.base) width v
    else if s.cfg.base < addr + width then s.hostError a
    else s

end Sys2Proof.Machine
end

