-- ==== Sys2Proof/Machine/Control.lean ====
section
/-! DEFINITION. The controller's step (40_system.md rule R74), and the reset event with what it does to a running
command (70_reset_and_hazards.md rules R161 to R164). -/

namespace Sys2Proof.Machine

/-- The controller's one step on the accepted word `w` (R74): it decodes the word and runs the command whole. An
`ILLEGAL` word completes at once with `ILLEGAL_COMMAND` (R66). -/
def State.runCommand (s : State) (w : Word) : Host.Outcome State Fault Refusal :=
  match decode w with
  | .ok i => exec i s
  | .error _ => .next (s.raise (.illegalCommand w))

/-- What the running command would do if nothing cut it (DESIGN CHOICE, log entry 10): the events it appends to `H`,
those it then repeats without end (none but for a pass the master restarts without end), whether it then waits for
another slot without end, its NVM byte writes in order, and the bus environment after its draws. -/
structure Unbroken where
  events : List Event
  repeats : List Event
  waits : Bool
  writes : List Host.Cell
  env : Env
  deriving DecidableEq, Repr

/-- No command runs, or one without bus slots and NVM writes. -/
def unbrokenNothing (s : State) : Unbroken where
  events := []
  repeats := []
  waits := false
  writes := []
  env := s.bus.env

/-- A command of bus slots: what its step appends to `H`. -/
def unbrokenBus (s : State) (o : Host.Outcome State Fault Refusal) : Unbroken :=
  match o with
  | .next t =>
    { unbrokenNothing s with events := t.bus.hist.drop s.bus.hist.length, env := t.bus.env }
  | .fault _ => unbrokenNothing s
  | .refused _ => unbrokenNothing s

/-- A pass of `OW_EMULATE_POLL`, also one that waits (R133) or restarts (R132) without end. -/
def unbrokenPass (s : State) : Unbroken :=
  let r := emuPass s.cfg s.regs.idbuf s.bus.env
  { unbrokenNothing s with
    events := r.1.actions.map SlaveAction.event
    repeats := if r.1.ending = .endless then emuRestart.map SlaveAction.event else []
    waits := decide (r.1.ending = .waiting)
    env := r.2 }

/-- A key-store command that writes (R163): the byte writes of its plan. -/
def unbrokenStore (s : State) (r : Except CmdError StorePlan) : Unbroken :=
  match r with
  | .ok plan => { unbrokenNothing s with writes := plan.writes }
  | .error _ => unbrokenNothing s

/-- What each command would do (R162, R163). -/
def unbroken (i : Instr) (s : State) : Unbroken :=
  match i with
  | .nop => unbrokenNothing s
  | .owReset => unbrokenBus s (exec .owReset s)
  | .owWriteBit b => unbrokenBus s (exec (.owWriteBit b) s)
  | .owReadBit => unbrokenBus s (exec .owReadBit s)
  | .owWriteByte v => unbrokenBus s (exec (.owWriteByte v) s)
  | .owReadByte => unbrokenBus s (exec .owReadByte s)
  | .owWriteEnable => unbrokenBus s (exec .owWriteEnable s)
  | .owReadId => unbrokenBus s (exec .owReadId s)
  | .owReadRaw => unbrokenBus s (exec .owReadRaw s)
  | .owCloneWrite => unbrokenBus s (exec .owCloneWrite s)
  | .owEmulatePoll => unbrokenPass s
  | .crcClear => unbrokenNothing s
  | .crcUpdate _ => unbrokenNothing s
  | .crcSeal => unbrokenNothing s
  | .ksCount => unbrokenNothing s
  | .ksGet _ => unbrokenNothing s
  | .ksInsert => unbrokenStore s (insertPlan s.cfg s.regs s.nvm)
  | .ksDelete n => unbrokenStore s (deletePlan s.cfg.nslots s.nvm n)
  | .ksSetCount n => unbrokenStore s (.ok (setCountPlan n))
  | .ksResolve _ => unbrokenNothing s

/-- What the command the sequencer holds would do. -/
def State.running (s : State) : Unbroken :=
  match s.seq with
  | .idle => unbrokenNothing s
  | .busy w =>
    match decode w with
    | .ok i => unbroken i s
    | .error _ => unbrokenNothing s

/-- The events of the running command as far as `n` of them reach. -/
def Unbroken.upTo (u : Unbroken) (n : Nat) : List Event := u.events ++ (List.replicate n u.repeats).flatten

/-- The events a cut command leaves in `H` (R162): its completed slots, and `Truncated` if the next one was in
progress. -/
def cutEvents (u : Unbroken) (t : Truncation) : List Event :=
  (u.upTo t.slots).take t.slots
    ++ if t.inSlot && (decide (t.slots < (u.upTo t.slots).length) || u.waits) then [.truncated] else []

/-- The byte writes a cut command leaves in the NVM (R163): the first `t.writes` of them, and any value in the byte
that the next one targets. -/
def tornWrites (writes : List Host.Cell) (t : Truncation) : List Host.Cell :=
  writes.take t.writes
    ++ match writes.drop t.writes with
      | [] => []
      | c :: _ => [(c.1, t.torn)]

/-- The reset event (R161): a running command is cut (R162), its NVM writes are torn (R163), every register takes
its reset value, and `H` and `FREC` are kept. Power loss is this event too (R164). -/
def State.resetEvent (s : State) (t : Truncation) : State :=
  let u := s.running
  let r := (s.writeNvm (tornWrites u.writes t)).resetRegisters
  { r with bus := { r.bus with hist := s.bus.hist ++ cutEvents u t, env := u.env } }

/-- The controller's turn: an idle controller does nothing (R159), a busy one runs its command (R74). -/
def State.controllerTurn (s : State) : Host.Outcome State Fault Refusal :=
  match s.seq with
  | .idle => .next s
  | .busy w => s.runCommand w

/-- One step of the interleaving (R152): the next input if there is one, else the controller's turn (R80). -/
def State.advance (s : State) : Host.Outcome State Fault Refusal :=
  match s.agenda with
  | [] => s.controllerTurn
  | .controller :: rest => State.controllerTurn { s with agenda := rest }
  | .host a :: rest => .next (State.hostAccess { s with agenda := rest } a)
  | .reset t :: rest => .next (State.resetEvent { s with agenda := rest } t)

/-- The block with the command word `w` accepted (R73) and the controller to move next: the step that follows runs
exactly that command. -/
def State.issue (s : State) (w : Word) : State :=
  { s.accept w with agenda := .controller :: s.agenda }

end Sys2Proof.Machine
end

