-- ==== Sys2Proof/Machine/Step.lean ====
section
/-! DEFINITION. One step of the block, and the placing of a command where the next step runs it. -/

namespace Sys2Proof.Machine

/-- One step of the block: a host access, the controller's command step, or a reset (60_exceptions.md rule R152). -/
def step (s : State) : Host.Outcome State Fault Refusal := s.advance

/-- The command word `w` accepted (40_system.md rule R73), the bits above `nbits` zero, so that the next step runs
it. The block fetches nothing (R53): a command comes from a host write to `CMD` (DESIGN CHOICE, log
entry 8). -/
def State.withFetchWord (s : State) (nbits w : Nat) : State := s.issue (BitVec.ofNat 32 (w % 2 ^ nbits))

end Sys2Proof.Machine
end

