-- ==== Sys2Proof/Machine/HostProgram.lean ====
section
/-! DEFINITION. Host programs as lists of inputs (30_encoding.md rules R70, R71): the host actions `wr`, `rd`, `cmd`
and `wait`, and the fixed expansions of the pseudo-instructions. A host's loops and tests are its own: a program
here is one path through them. -/

namespace Sys2Proof.Machine

/-- `wr<8n> off, v` (R70). A value past the width is cut to it (DESIGN CHOICE, log entry 19). -/
def hostWr (c : Config) (off n : Nat) (v : Nat) : Input :=
  .host (.write (c.base + off) n (BitVec.ofNat 32 v))

/-- `rd<8n> off` (R70). -/
def hostRd (c : Config) (off n : Nat) : Input := .host (.read (c.base + off) n)

/-- `cmd MNEMONIC [operand]` (R70): the 4-byte write of the command word. An operand past its form's field is an
assembly error (R69, `assemble`), and R70 gives no expansion of it: here `encode` is written unchecked, also in the
pseudo-instructions built on this one (DESIGN CHOICE, log entry 19). -/
def hostCmd (c : Config) (i : Instr) : Input := hostWr c 0x00 4 (encode i).toNat

/-- `wait` (R70) as a poll that finds `BUSY` = 0: the controller has its turn before the read of `STATUS` (DESIGN
CHOICE, log entry 19). -/
def hostWait (c : Config) : List Input := [.controller, hostRd c 0x04 4]

/-- `do MNEMONIC [op]` (R71). -/
def hostDo (c : Config) (i : Instr) : List Input := hostCmd c i :: hostWait c

/-- `setid b0..b7` (R71). R71 takes exactly eight bytes and gives no expansion of another number: here bytes past the
eighth are dropped and missing ones are 0, unchecked (DESIGN CHOICE, log entry 19). -/
def hostSetId (c : Config) (id : List Byte) : List Input :=
  [hostWr c 0x10 4 (leNumber (id.take 4)), hostWr c 0x14 4 (leNumber ((id.drop 4).take 4))]

/-- Byte writes at consecutive offsets. -/
def hostWrBytes (c : Config) (off : Nat) : List Byte → List Input
  | [] => []
  | v :: rest => hostWr c off 1 v.toNat :: hostWrBytes c (off + 1) rest

/-- `setname "s"` (R71): the characters, then 0x00. R71 allows at most 31 of them; a longer name is expanded all the
same, unchecked (DESIGN CHOICE, log entry 19). -/
def hostSetName (c : Config) (name : List Byte) : List Input := hostWrBytes c 0x20 (name ++ [0x00#8])

/-- `settype t` (R71). R71 allows t ≤ 127; a larger byte is expanded all the same, unchecked (DESIGN CHOICE, log entry
19). -/
def hostSetType (c : Config) (t : Byte) : List Input := [hostWr c 0x0C 1 t.toNat]

/-- `HOST_K n` (R71). -/
def hostK (c : Config) (n : Nat) : List Input := hostDo c (.ksSetCount n)

/-- `HOST_D n` (R71). -/
def hostD (c : Config) (n : Nat) : List Input := hostDo c (.ksDelete n)

/-- `SAVE_KEY name` (R71). -/
def hostSaveKey (c : Config) (name : List Byte) : List Input := hostSetName c name ++ hostDo c .ksInsert

/-- `HOST_W name type b0..b6` (R71). R71 takes exactly seven bytes and gives no expansion of another number: here a 0
follows the bytes given, and `setid` takes the first eight, unchecked (DESIGN CHOICE, log entry 19). -/
def hostW (c : Config) (name : List Byte) (t : Byte) (body : List Byte) : List Input :=
  hostSetName c name ++ hostSetType c t ++ hostSetId c (body ++ [0x00#8]) ++ hostDo c .crcSeal ++ hostDo c .ksInsert

/-- The reads of a loaded record in `HOST_L` (R71): `NAMEBUF`, `TYPE`, `IDBUF`. R71 gives no widths: here `NAMEBUF` is
eight 4-byte reads, `TYPE` one of a byte, `IDBUF` two of 4 bytes (DESIGN CHOICE, log entry 19). -/
def hostReadRecord (c : Config) : List Input :=
  [0x20, 0x24, 0x28, 0x2C, 0x30, 0x34, 0x38, 0x3C].map (fun off => hostRd c off 4)
    ++ [hostRd c 0x0C 1, hostRd c 0x10 4, hostRd c 0x14 4]

/-- The loop of `HOST_L` (R71) over `n` logical indices from `i` on. -/
def hostListFrom (c : Config) : (n i : Nat) → List Input
  | 0, _ => []
  | n + 1, i => hostDo c (.ksGet i) ++ hostReadRecord c ++ hostListFrom c n (i + 1)

/-- `HOST_L` (R71) on a store whose `KS_COUNT` answered `count`. -/
def hostL (c : Config) (count : Nat) : List Input :=
  hostDo c .ksCount ++ [hostRd c 0x08 4] ++ hostListFrom c count 0

/-- `SKIP_ROM` (R71, R72). -/
def hostSkipRom (c : Config) : List Input := hostDo c (.owWriteByte 0xCC)

end Sys2Proof.Machine
end

