-- ==== Sys2Proof/Safety.lean ====
section
/-! DEFINITION. The terms claims are stated in: a clean run (10_state.md rule R26), a well-formed slot table
(20_memory.md rule R47), a consistent state, and what a completed command leaves (R75, R147). -/

namespace Sys2Proof.Machine

/-! ## Clean runs -/

/-- `FREC` is empty: no class F completion and no host error has happened (R26). A claim about a run takes it as
its premise. -/
def State.clean (s : State) : Prop := s.frec = []

/-! ## The slot table (R47) -/

/-- Slot `p` is tombstoned (R42). -/
def Tomb (m : Memory) (p : Nat) : Prop := isTomb (markerAt m p) = true

/-- `[h, t]` is a maximal span of tombstoned slots inside `[0, le)` (R47). -/
structure IsSpan (m : Memory) (le h t : Nat) : Prop where
  ordered : h ≤ t
  inside : t < le
  tombs : ∀ q, h ≤ q → q ≤ t → Tomb m q
  leftEdge : h = 0 ∨ ¬ Tomb m (h - 1)
  rightEdge : t + 1 = le ∨ ¬ Tomb m (t + 1)

/-- Items 1 to 4 of `WF(NVM)` (R47) for the logical end `le`. Item 5 follows from maximality. -/
structure TableWFAt (nslots le : Nat) (m : Memory) : Prop where
  logicalEnd : logicalEnd m nslots = .ok le
  bound : le ≤ nslots
  liveSlots : logicalOf m le = liveCount m
  lastLive : 0 < liveCount m → ¬ Tomb m (le - 1)
  spans : ∀ h t, IsSpan m le h t →
    markerAt m h = marker (t - h + 1) ∧ markerAt m t = marker (t - h + 1) ∧ t - h + 1 ≤ 127

/-- `WF(NVM)` (R47). A table whose logical end raises an error is not well formed. -/
def TableWF (nslots : Nat) (m : Memory) : Prop := ∃ le, TableWFAt nslots le m

/-- The walk of R81 comes to slot `p` with `k` live slots below it: it starts at slot 0, passes over a run from its
head, and counts a live slot. -/
inductive Visited (m : Memory) (nslots : Nat) : Nat → Nat → Prop where
  | start : Visited m nslots 0 0
  | skip {p k : Nat} : Visited m nslots p k → p < nslots → Tomb m p → runlen (markerAt m p) ≠ 0 →
      Visited m nslots (p + runlen (markerAt m p)) k
  | count {p k : Nat} : Visited m nslots p k → p < nslots → ¬ Tomb m p → Visited m nslots (p + 1) (k + 1)

/-! ## Consistent states -/

/-- The error codes a completed command can report (R143). -/
def reportedCodes : List Byte :=
  [0x00#8, 0x01#8, 0x02#8, 0x03#8, 0x04#8, 0x10#8, 0x11#8, 0x12#8, 0x13#8, 0x14#8, 0x15#8, 0x16#8]

/-- What the spec says of every state between steps, over the whole machine. -/
structure State.Consistent (s : State) : Prop where
  /-- The parameters are legal (R8, R9, R106). -/
  parameters : s.cfg.ok = true
  /-- `ERR` = (`ERRCODE` ≠ 0) (R19). -/
  errCode : s.regs.status.err = (s.regs.status.errcode != 0#8)
  /-- `ERRCODE` is one of the codes of R143. -/
  codeListed : s.regs.status.errcode ∈ reportedCodes
  /-- `SEQ` = `Busy(w)` exactly when `BUSY` = 1 (R24). -/
  busySeq : s.regs.status.busy = s.seq.isBusy
  /-- While a command runs `CMD` holds its word (R73, R148). -/
  cmdSeq : ∀ w, s.seq = .busy w → s.regs.cmd = w
  /-- `BUSY` and `DONE` are never both set (R73, R75, R147). -/
  notBoth : (s.regs.status.busy && s.regs.status.done) = false
  /-- A host error sets `FAULT` with `HAZARD` (R38). -/
  hazardFault : s.regs.status.hazard = true → s.regs.status.fault = true
  /-- `FAULT` is the view of `FREC` since the last reset (R26). -/
  faultLogged : s.regs.status.fault = true → s.frec ≠ []
  /-- `RESULT[31:16]` reads 0 (R21). -/
  resultHigh : s.regs.result.toNat < 65536
  /-- The line is released between slots (R20). -/
  line : s.bus.line = .released
  /-- The NVM is in canonical form. -/
  nvmForm : s.nvm.wf = true
  /-- Addresses from 2 + 41 × NSLOTS upward are never touched (R34, R41). -/
  nvmBound : ∀ c ∈ s.nvm, c.1 < 2 + 41 * s.cfg.nslots

/-! ## Errors a command can report -/

/-- The row of the command/error matrix (R145), as codes. -/
def permittedCodes (i : Instr) : List Byte :=
  match i with
  | .nop => []
  | .owReset => []
  | .owWriteBit _ => []
  | .owReadBit => []
  | .owWriteByte _ => []
  | .owReadByte => []
  | .owWriteEnable => []
  | .owReadId => [0x01#8, 0x02#8, 0x03#8]
  | .owReadRaw => [0x01#8]
  | .owCloneWrite => [0x01#8, 0x04#8]
  | .owEmulatePoll => []
  | .crcClear => []
  | .crcUpdate _ => []
  | .crcSeal => []
  | .ksCount => []
  | .ksGet _ => [0x11#8, 0x12#8, 0x16#8]
  | .ksInsert => [0x14#8, 0x15#8, 0x12#8, 0x16#8, 0x13#8]
  | .ksDelete _ => [0x11#8, 0x12#8, 0x16#8]
  | .ksSetCount _ => []
  | .ksResolve _ => [0x11#8, 0x12#8, 0x16#8]

/-! ## Legal host accesses (R35) -/

/-- A read of `width` bytes at offset `off` lies inside the register `r`, aligned, with a legal width (R35). -/
structure LegalRead (r : RegSpan) (off width : Nat) : Prop where
  mapped : r ∈ registerMap
  widthOk : width = 1 ∨ width = 2 ∨ width = 4
  aligned : off % width = 0
  low : r.first ≤ off
  high : off + width ≤ r.first + r.size

/-- A legal write (R35): a read/write register, or all four bytes of `CMD`, and `BUSY` = 0. -/
structure LegalWrite (busy : Bool) (r : RegSpan) (off width : Nat) : Prop where
  span : LegalRead r off width
  access : r.access = .readWrite ∨ (r.name = .cmd ∧ width = 4)
  notBusy : busy = false

/-! ## Completed commands -/

/-- What no command touches: parameters, the coming inputs, the host's read data with its count, and the command
word. -/
structure Untouched (s t : State) : Prop where
  cfg : t.cfg = s.cfg
  agenda : t.agenda = s.agenda
  rdata : t.rdata = s.rdata
  reads : t.reads = s.reads
  cmd : t.regs.cmd = s.regs.cmd

/-- `t` is the state after the command of `s` ended with `finish(v)` (R75). -/
structure FinishedWith (s t : State) (v : Half) : Prop where
  untouched : Untouched s t
  result : t.regs.result = v.setWidth 32
  errcode : t.regs.status.errcode = 0x00#8
  err : t.regs.status.err = false
  done : t.regs.status.done = true
  busy : t.regs.status.busy = false
  fault : t.regs.status.fault = s.regs.status.fault
  hazard : t.regs.status.hazard = s.regs.status.hazard
  seq : t.seq = .idle
  line : t.bus.line = .released
  frec : t.frec = s.frec

/-- `t` is the state after the command of `s` ended with `raise e` (R147). -/
structure FailedWith (s t : State) (e : CmdError) : Prop where
  untouched : Untouched s t
  result : t.regs.result = 0#32
  errcode : t.regs.status.errcode = e.code
  err : t.regs.status.err = true
  done : t.regs.status.done = true
  busy : t.regs.status.busy = false
  fault : t.regs.status.fault = (s.regs.status.fault || e.isFault)
  hazard : t.regs.status.hazard = s.regs.status.hazard
  seq : t.seq = .idle
  line : t.bus.line = .released
  frec : t.frec = if e.isFault then s.frec ++ [.command e s.runningWord] else s.frec

/-- The operand registers `TYPE`, `NAMEBUF`, `IDBUF`, `RBBUF` and `CRC` are as before. -/
structure SameOperands (s t : State) : Prop where
  keyType : t.regs.keyType = s.regs.keyType
  namebuf : t.regs.namebuf = s.regs.namebuf
  idbuf : t.regs.idbuf = s.regs.idbuf
  rbbuf : t.regs.rbbuf = s.regs.rbbuf
  crc : t.regs.crc = s.regs.crc

/-- Every byte of the NVM reads as before. -/
def SameNvm (s t : State) : Prop := ∀ a, t.nvm.read a = s.nvm.read a

/-- No bus slot: the history and the environment are as before. -/
structure SameBus (s t : State) : Prop where
  hist : t.bus.hist = s.bus.hist
  env : t.bus.env = s.bus.env

/-- The addresses of byte writes. -/
def targets (cells : List Host.Cell) : List Nat := cells.map (fun c => c.1)

/-! ## What the bus answers and what the block puts on it -/

/-- The next `n` read-slot bits the environment answers, in order. -/
def Env.drawBits (e : Env) : Nat → List Bool × Env
  | 0 => ([], e)
  | n + 1 =>
    let r := e.drawBit
    let q := Env.drawBits r.2 n
    (r.1 :: q.1, q.2)

/-- `n` bytes from bits, byte 0 first, each least significant bit first (R55). -/
def bytesOfBits : (n : Nat) → List Bool → List Byte
  | 0, _ => []
  | n + 1, bits => byteOfBits (bits.take 8) :: bytesOfBits n (bits.drop 8)

/-- The write slots of a byte (R109). -/
def writeEvents (v : Byte) : List Event := (bitsOfByte v).map Event.writeSlot

/-- The events of the write-enable sequence (R115). -/
def writeEnableEvents (f : WeForm) : List Event :=
  match f with
  | .bytePlusPulse => writeEvents 0xD1#8 ++ [.wePulse]
  | .byteOnly => writeEvents 0xD1#8
  | .pulseOnly => [.wePulse]

/-- The identity bytes a clone write sends (R124): bytes 0 to 6 of the buffer and their CRC. -/
def cloneBytes (id : Vector Byte 8) : List Byte := identityBody id ++ [crc8 (identityBody id)]

/-- The events of `clone_seq()` after a reset with presence (R124). -/
def cloneEvents (c : Config) (id : Vector Byte 8) : List Event :=
  writeEvents 0xCC#8 ++ writeEnableEvents c.weForm ++ writeEvents 0xD5#8
    ++ (bitsOfBytes (cloneBytes id)).map (fun b => Event.writeSlot (b ^^ c.writeDataInvert))
    ++ writeEnableEvents c.weForm

/-- The events of a raw read whose reset saw presence, with the bits received (R120). -/
def readRomEvents (bits : List Bool) : List Event :=
  writeEvents 0x33#8 ++ bits.map Event.readSlot

/-- A master slot that carries bit `b` in emulation: short is 1, long is 0 (R129). -/
def slotFor (b : Bool) : MasterEvent := if b then .short else .long

/-- What the block records of a master slot in emulation (R27). -/
def masterSeen : MasterEvent → SlaveEvent
  | .reset => .reset
  | .short => .short
  | .long => .long
  | .silent => .timeout
  | .resets => .reset

/-- What a reset pulse of the master puts into `H` (R128, R132): it is seen, and presence is driven. -/
def restartEvents : List Event := [.slaveSaw .reset, .slavePresence]

/-- The events of a transaction's slots (R129, R130): eight slots of the command byte, then identity slots, each
answered with the next bit of the identity. -/
def transactionEvents (id : Vector Byte 8) (slots : List MasterEvent) : List Event :=
  (slots.take 8).map (fun x => Event.slaveSaw (masterSeen x))
    ++ (((slots.drop 8).zip (bitsOfBytes id.toList)).map
        (fun p => [Event.slaveSaw (masterSeen p.1), Event.slaveBit p.2])).flatten

/-- Slots after which a transaction of R128 is still going on: fewer than eight, or a read-ROM command byte and fewer
than 64 identity slots. -/
structure Unfinished (slots : List MasterEvent) : Prop where
  plain : ∀ x ∈ slots, x = .short ∨ x = .long
  short : slots.length < 8 ∨ ∃ more, slots = (bitsOfByte 0x33#8).map slotFor ++ more ∧ more.length < 64

end Sys2Proof.Machine
end

