-- ==== Sys2Proof/Certificates/Slice0/Obligations.lean ====
section
/-! DEFINITION. The statements about the SWB/KS block, each from the rules of the spec it names. A statement about
a free value holds for every value of it: the draws and the unwritten NVM bytes are whatever the state's
environment and memory give. -/

open Sys2Proof Sys2Proof.Machine

/-! ## Encoding -/

/-- R60 to R63: decoding the word of a command whose operand fits its form gives the command back, with every
operand at every value its form admits. -/
def Obligations.DecodeEncodeRoundTrip : Prop :=
  ∀ i : Instr, i.wellFormed = true → decode (encode i) = .ok i

/-- R61, R63, R67: a word that decodes is the word of the command it decodes to, and the operand fits the form, so
no bit of a word is ignored. -/
def Obligations.EncodeDecodeRoundTrip : Prop :=
  ∀ (w : Word) (i : Instr), decode w = .ok i → i.wellFormed = true ∧ encode i = w

/-- R64: `decode` is the row that matches, with the operand bits its mask leaves; no row is `ILLEGAL`; at most one
row matches, because the rows' opcodes differ; a word of a listed opcode that misses its row is `ILLEGAL`. -/
def Obligations.DecodeFollowsOpcodeMap : Prop :=
  (∀ w : Word, ∀ r ∈ opcodeMap, w &&& r.mask = r.pattern → decode w = .ok (r.make (w &&& ~~~r.mask).toNat)) ∧
  (∀ w : Word, (∀ r ∈ opcodeMap, w &&& r.mask ≠ r.pattern) → ∃ e, decode w = .error e) ∧
  (∀ w : Word, ∀ r ∈ opcodeMap, ∀ q ∈ opcodeMap,
    w &&& r.mask = r.pattern → w &&& q.mask = q.pattern → r.pattern = q.pattern) ∧
  (∀ r ∈ opcodeMap, ∀ q ∈ opcodeMap, opcodeField r.pattern = opcodeField q.pattern → r.pattern = q.pattern) ∧
  (∀ w : Word, ∀ r ∈ opcodeMap,
    opcodeField w = opcodeField r.pattern → w &&& r.mask ≠ r.pattern → ∃ e, decode w = .error e)

/-- R65: the opcodes in no row are exactly 0x07 to 0x0F, 0x14 to 0x1F, 0x23 to 0x2F and 0x36 to 0xFF, and a word
with one of them decodes as `ILLEGAL`. -/
def Obligations.ReservedOpcodesAreIllegal : Prop :=
  ∀ w : Word,
    ((∀ r ∈ opcodeMap, opcodeField r.pattern ≠ opcodeField w) ↔
      ((0x07 ≤ (opcodeField w).toNat ∧ (opcodeField w).toNat ≤ 0x0F) ∨
       (0x14 ≤ (opcodeField w).toNat ∧ (opcodeField w).toNat ≤ 0x1F) ∨
       (0x23 ≤ (opcodeField w).toNat ∧ (opcodeField w).toNat ≤ 0x2F) ∨
       0x36 ≤ (opcodeField w).toNat)) ∧
    ((∀ r ∈ opcodeMap, opcodeField r.pattern ≠ opcodeField w) → ∃ e, decode w = .error e)

/-- R69, R63: words written out from the encoding, one of each family, and the assembler's refusals. -/
def Obligations.SpecWordsDecode : Prop :=
  decode 0x00000000#32 = .ok .nop ∧
  decode 0x04000033#32 = .ok (.owWriteByte 0x33) ∧
  decode 0x02000001#32 = .ok (.owWriteBit 1) ∧
  decode 0x10000000#32 = .ok .owReadId ∧
  decode 0x2100001C#32 = .ok (.crcUpdate 0x1C) ∧
  decode 0x31000002#32 = .ok (.ksGet 2) ∧
  assemble (.owWriteByte 0x33) = some 0x04000033#32 ∧
  assemble (.owWriteByte 0x100) = none ∧
  assemble (.owWriteBit 2) = none ∧
  assemble (.ksGet 0x10000) = none

/-! ## The life of a command -/

/-- R74: when the sequencer holds a word that decodes, the controller's one step is the command's meaning. R74 says no
more than that. When the controller moves is the model's choice (log entry 7, DESIGN CHOICE): its turn comes where
the agenda names it, with that entry taken off, and where the agenda is empty. That a word placed by `withFetchWord`
is the next to run is the model's choice too (log entry 8, DESIGN CHOICE). -/
def Obligations.StepRunsDecodedCommand : Prop :=
  ∀ (s : State) (w : Word) (i : Instr), decode w = .ok i →
    (s.seq = .busy w → s.agenda = [] → step s = exec i s) ∧
    (∀ rest, s.seq = .busy w → s.agenda = .controller :: rest → step s = exec i { s with agenda := rest }) ∧
    step (s.withFetchWord 32 w.toNat) = exec i (s.accept w)

/-- R73: a 4-byte host write of `w` to `CMD` is accepted while `SEQ` = `Idle`, in one step and with nothing else
changed; while a command runs it is a host error, and is not accepted, queued or merged. -/
def Obligations.CommandAcceptance : Prop :=
  ∀ (s : State) (w : Word) (rest : List Input),
    s.agenda = .host (.write s.cfg.base 4 w) :: rest → s.regs.status.busy = s.seq.isBusy →
    (s.seq = .idle → ∃ t, step s = .next t ∧
      t.regs.cmd = w ∧ t.regs.status.busy = true ∧ t.regs.status.done = false ∧ t.regs.status.err = false ∧
      t.regs.status.errcode = 0x00#8 ∧ t.seq = .busy w ∧
      t.regs.status.fault = s.regs.status.fault ∧ t.regs.status.hazard = s.regs.status.hazard ∧
      t.regs.result = s.regs.result ∧ SameOperands s t ∧ SameNvm s t ∧ t.bus = s.bus ∧ t.frec = s.frec ∧
      t.cfg = s.cfg ∧ t.rdata = s.rdata ∧ t.reads = s.reads ∧ t.agenda = rest) ∧
    (∀ v, s.seq = .busy v → ∃ t, step s = .next t ∧
      t.seq = .busy v ∧ t.regs.cmd = s.regs.cmd ∧ t.regs.result = s.regs.result ∧ SameOperands s t ∧ SameNvm s t ∧
      t.bus = s.bus ∧ t.regs.status = { s.regs.status with hazard := true, fault := true } ∧
      t.frec = s.frec ++ [.hostError (.write s.cfg.base 4 w)] ∧ t.agenda = rest)

/-- R66: an `ILLEGAL` word is accepted like any command and completes in the controller's next step with
`ILLEGAL_COMMAND`: `RESULT` = 0, `FAULT` set, an entry in `FREC`, and no other register, NVM byte or bus slot. -/
def Obligations.IllegalWordCompletes : Prop :=
  ∀ (s : State) (w : Word) (e : Illegal), decode w = .error e → s.seq = .idle → s.regs.status.busy = false →
    s.agenda = [.host (.write s.cfg.base 4 w)] →
    ∃ u t, step s = .next u ∧ u.regs.cmd = w ∧ u.regs.status.busy = true ∧ step u = .next t ∧
      FailedWith u t (.illegalCommand w) ∧ t.regs.cmd = w ∧ t.regs.result = 0#32 ∧
      t.regs.status.errcode = 0x10#8 ∧ t.regs.status.fault = true ∧
      t.frec = s.frec ++ [.command (.illegalCommand w) w] ∧ SameOperands s t ∧ SameNvm s t ∧ SameBus s t

/-- R19, R147: the `STATUS` word has each flag at its bit and reserved bits 0, so a completion with no fault yet
reads 0x00000002 on success, 0x0000xx06 on a class O error and 0x0000xx0E on a class F error of code xx. -/
def Obligations.StatusWordFields : Prop :=
  (∀ t : Status,
    t.word.getLsbD 0 = t.busy ∧ t.word.getLsbD 1 = t.done ∧ t.word.getLsbD 2 = t.err ∧ t.word.getLsbD 3 = t.fault ∧
    t.word.getLsbD 4 = t.hazard ∧ t.word.extractLsb' 8 8 = t.errcode ∧
    ∀ k, (5 ≤ k ∧ k ≤ 7) ∨ 16 ≤ k → t.word.getLsbD k = false) ∧
  (∀ (s t : State) (v : Half), FinishedWith s t v → s.regs.status.fault = false → s.regs.status.hazard = false →
    t.regs.status.word = 0x00000002#32) ∧
  (∀ (s t : State) (e : CmdError), FailedWith s t e → s.regs.status.fault = false → s.regs.status.hazard = false →
    t.regs.status.word = (e.code.setWidth 32 <<< 8) ||| (if e.isFault then 0x0E#32 else 0x06#32))

/-- R76: `NOP`. -/
def Obligations.NopCompletes : Prop :=
  (∀ s : State, ∃ t, exec .nop s = .next t ∧
    FinishedWith s t 0#16 ∧ SameOperands s t ∧ SameNvm s t ∧ SameBus s t) ∧
  decode 0x00000000#32 = .ok .nop ∧
  (∀ w : Word, opcodeField w = 0x00#8 → w ≠ 0x00000000#32 → ∃ e, decode w = .error e)

/-- R145: a word that does not decode reports `ILLEGAL_COMMAND`; after decode each command reports success or a
code of its row. -/
def Obligations.ErrorMatrix : Prop :=
  (∀ (s : State) (w : Word) (e : Illegal), decode w = .error e →
    ∃ t, s.runCommand w = .next t ∧ t.regs.status.errcode = 0x10#8) ∧
  (∀ (i : Instr) (s t : State), exec i s = .next t → s.regs.status.errcode = 0x00#8 →
    t.regs.status.errcode = 0x00#8 ∨ t.regs.status.errcode ∈ permittedCodes i)

/-- R79 (and R147 for the last clause): the frame of every command. Parameters, agenda, read data and `CMD` are
kept; each operand register, the NVM and the bus change only under the commands named; a command that reports an
error has written no NVM byte. -/
def Obligations.CommandFrame : Prop :=
  ∀ (i : Instr) (s t : State), exec i s = .next t →
    Untouched s t ∧
    ((∀ n, i ≠ .ksGet n) → t.regs.keyType = s.regs.keyType ∧ t.regs.namebuf = s.regs.namebuf) ∧
    ((∀ n, i ≠ .ksGet n) → i ≠ .owReadId → i ≠ .crcSeal → t.regs.idbuf = s.regs.idbuf) ∧
    (i = .owReadId → t.regs.status.err = true → t.regs.idbuf = s.regs.idbuf) ∧
    (i ≠ .owReadId → i ≠ .owReadRaw → i ≠ .owCloneWrite → t.regs.rbbuf = s.regs.rbbuf) ∧
    (i ≠ .crcClear → (∀ v, i ≠ .crcUpdate v) → t.regs.crc = s.regs.crc) ∧
    (i ≠ .ksInsert → (∀ n, i ≠ .ksDelete n) → (∀ n, i ≠ .ksSetCount n) → SameNvm s t) ∧
    ((i = .nop ∨ i = .crcClear ∨ (∃ v, i = .crcUpdate v) ∨ i = .crcSeal ∨ i = .ksCount ∨ (∃ n, i = .ksGet n) ∨
      i = .ksInsert ∨ (∃ n, i = .ksDelete n) ∨ (∃ n, i = .ksSetCount n) ∨ (∃ n, i = .ksResolve n)) → SameBus s t) ∧
    (t.regs.status.err = true → SameNvm s t)

/-- R80, R74, R133: every command ends its step idle and `DONE`, but a pass of `OW_EMULATE_POLL` that never ends, which
leaves the block as it is: one without a timeout, or one whose master restarts it without end. R74 says that such a
pass has no step; that it is a step to the same state is the model's choice (log entry 9, DESIGN CHOICE), and so is
the form of what the master sends (log entry 4, DEDUCED). That no step of the block ever stops it is the model's
reading of R149 (log entry 18, DEDUCED). -/
def Obligations.EveryCommandAnswers : Prop :=
  (∀ (i : Instr) (s : State), ∃ t, exec i s = .next t ∧
    ((t.seq = .idle ∧ t.regs.status.busy = false ∧ t.regs.status.done = true) ∨
     (i = .owEmulatePoll ∧ t = s ∧
       (s.cfg.emuSlotTimeout = none ∨ .resets ∈ s.bus.env.drawSample.2.masterAhead)))) ∧
  (∀ s : State, ∃ t, step s = .next t)

/-! ## CRC-8 -/

/-- R142: the step is the table T[i] = `crc8_step(i, 0)` at `c ^ b`, for all pairs, and the worked example has the
running values 5E 07 1C 62 FE 8F 75. -/
def Obligations.CrcTableForm : Prop :=
  (∀ c b : Byte, crc8Step c b = crc8Step (c ^^^ b) 0x00#8) ∧
  crc8 [0x01#8, 0x11#8, 0x22#8, 0x33#8, 0x44#8, 0x55#8, 0x66#8] = 0x75#8 ∧
  [1, 2, 3, 4, 5, 6, 7].map (fun n => crc8 ([0x01#8, 0x11#8, 0x22#8, 0x33#8, 0x44#8, 0x55#8, 0x66#8].take n))
    = [0x5E#8, 0x07#8, 0x1C#8, 0x62#8, 0xFE#8, 0x8F#8, 0x75#8]

/-- R137: the bytes are folded in order from 0; the two order examples; the residue of every sequence is 0. -/
def Obligations.CrcOfSequence : Prop :=
  crc8 [] = 0x00#8 ∧
  (∀ (s : List Byte) (b : Byte), crc8 (s ++ [b]) = crc8Step (crc8 s) b) ∧
  crc8 [0x01#8, 0x02#8, 0x03#8, 0x04#8, 0x05#8, 0x06#8, 0x07#8] = 0x0F#8 ∧
  crc8 [0x01#8, 0x07#8, 0x06#8, 0x05#8, 0x04#8, 0x03#8, 0x02#8] = 0xD2#8 ∧
  (∀ s : List Byte, crc8 (s ++ [crc8 s]) = 0x00#8)

/-- R138: `CRC_CLEAR`. -/
def Obligations.CrcClearCompletes : Prop :=
  (∀ s : State, ∃ t, exec .crcClear s = .next t ∧
    FinishedWith s t 0#16 ∧ t.regs.crc = 0x00#8 ∧
    t.regs.keyType = s.regs.keyType ∧ t.regs.namebuf = s.regs.namebuf ∧ t.regs.idbuf = s.regs.idbuf ∧
    t.regs.rbbuf = s.regs.rbbuf ∧ SameNvm s t ∧ SameBus s t) ∧
  decode 0x20000000#32 = .ok .crcClear ∧ State.reset.regs.crc = 0x00#8

/-- R139: `CRC_UPDATE v` folds the byte v into `CRC` and returns the new value; a word with `IMM[15:8]` ≠ 0 is
`ILLEGAL`; folding the current value gives 0. -/
def Obligations.CrcUpdateCompletes : Prop :=
  (∀ (v : Nat) (s : State), ∃ t, exec (.crcUpdate v) s = .next t ∧
    FinishedWith s t ((crc8Step s.regs.crc (BitVec.ofNat 8 v)).setWidth 16) ∧
    t.regs.crc = crc8Step s.regs.crc (BitVec.ofNat 8 v) ∧
    t.regs.keyType = s.regs.keyType ∧ t.regs.namebuf = s.regs.namebuf ∧ t.regs.idbuf = s.regs.idbuf ∧
    t.regs.rbbuf = s.regs.rbbuf ∧ SameNvm s t ∧ SameBus s t) ∧
  (∀ w : Word, opcodeField w = 0x21#8 → w &&& 0x0000FF00#32 ≠ 0#32 → ∃ e, decode w = .error e) ∧
  (∀ c : Byte, crc8Step c c = 0x00#8)

/-- R140: `CRC_SEAL` puts the CRC of identity bytes 0 to 6 into byte 7 and returns it; `CRC` is neither read nor
written; running it again changes `IDBUF` no further; an all-zero `IDBUF` seals with 0x00. -/
def Obligations.CrcSealCompletes : Prop :=
  (∀ s : State, ∃ t, exec .crcSeal s = .next t ∧
    FinishedWith s t ((crc8 (s.regs.idbuf.toList.take 7)).setWidth 16) ∧
    t.regs.idbuf[7] = crc8 (s.regs.idbuf.toList.take 7) ∧
    t.regs.idbuf.toList.take 7 = s.regs.idbuf.toList.take 7 ∧
    t.regs.keyType = s.regs.keyType ∧ t.regs.namebuf = s.regs.namebuf ∧ t.regs.rbbuf = s.regs.rbbuf ∧
    t.regs.crc = s.regs.crc ∧ SameNvm s t ∧ SameBus s t ∧
    (∃ u, exec .crcSeal t = .next u ∧ u.regs.idbuf = t.regs.idbuf) ∧
    (s.regs.idbuf = Vector.replicate 8 0x00#8 → t.regs.idbuf[7] = 0x00#8)) ∧
  decode 0x22000000#32 = .ok .crcSeal

/-! ## Bus primitives -/

/-- R110: `OW_RESET` performs one reset slot and returns the presence draw. -/
def Obligations.OwResetCompletes : Prop :=
  (∀ s : State, ∃ t, exec .owReset s = .next t ∧
    FinishedWith s t (if s.bus.env.drawPresence.1 then 1#16 else 0#16) ∧
    t.bus.hist = s.bus.hist ++ [.resetSlot s.bus.env.drawPresence.1] ∧ t.bus.env = s.bus.env.drawPresence.2 ∧
    SameOperands s t ∧ SameNvm s t) ∧
  decode 0x01000000#32 = .ok .owReset

/-- R111: `OW_WRITE_BIT b` performs one write slot with bit `IMM[0]`; other `IMM` bits make the word `ILLEGAL`. -/
def Obligations.OwWriteBitCompletes : Prop :=
  (∀ (b : Nat) (s : State), ∃ t, exec (.owWriteBit b) s = .next t ∧
    FinishedWith s t 0#16 ∧ t.bus.hist = s.bus.hist ++ [.writeSlot (b.testBit 0)] ∧ t.bus.env = s.bus.env ∧
    SameOperands s t ∧ SameNvm s t) ∧
  decode 0x02000000#32 = .ok (.owWriteBit 0) ∧ decode 0x02000001#32 = .ok (.owWriteBit 1) ∧
  (∀ w : Word, opcodeField w = 0x02#8 → w &&& 0x0000FFFE#32 ≠ 0#32 → ∃ e, decode w = .error e)

/-- R112: `OW_READ_BIT` performs one read slot and returns the bit drawn. -/
def Obligations.OwReadBitCompletes : Prop :=
  (∀ s : State, ∃ t, exec .owReadBit s = .next t ∧
    FinishedWith s t (if s.bus.env.drawBit.1 then 1#16 else 0#16) ∧
    t.bus.hist = s.bus.hist ++ [.readSlot s.bus.env.drawBit.1] ∧ t.bus.env = s.bus.env.drawBit.2 ∧
    SameOperands s t ∧ SameNvm s t) ∧
  decode 0x03000000#32 = .ok .owReadBit

/-- R113: `OW_WRITE_BYTE v` performs eight write slots, bit 0 of v first; `IMM[15:8]` ≠ 0 makes the word
`ILLEGAL`. -/
def Obligations.OwWriteByteCompletes : Prop :=
  (∀ (v : Nat) (s : State), ∃ t, exec (.owWriteByte v) s = .next t ∧
    FinishedWith s t 0#16 ∧
    t.bus.hist = s.bus.hist ++ (List.range 8).map (fun k => Event.writeSlot (v.testBit k)) ∧
    t.bus.env = s.bus.env ∧ SameOperands s t ∧ SameNvm s t) ∧
  (∀ v : Byte, decode (0x04000000#32 ||| v.setWidth 32) = .ok (.owWriteByte v.toNat)) ∧
  (∀ w : Word, opcodeField w = 0x04#8 → w &&& 0x0000FF00#32 ≠ 0#32 → ∃ e, decode w = .error e)

/-- R114: `OW_READ_BYTE` performs eight read slots and returns the byte whose bit k is the k-th bit drawn. -/
def Obligations.OwReadByteCompletes : Prop :=
  (∀ s : State, ∃ t, ∃ v : Byte, exec .owReadByte s = .next t ∧
    (∀ k, k < 8 → v.getLsbD k = (Env.drawBits s.bus.env 8).1.getD k false) ∧
    FinishedWith s t (v.setWidth 16) ∧
    t.bus.hist = s.bus.hist ++ (Env.drawBits s.bus.env 8).1.map Event.readSlot ∧
    t.bus.env = (Env.drawBits s.bus.env 8).2 ∧ SameOperands s t ∧ SameNvm s t) ∧
  decode 0x05000000#32 = .ok .owReadByte

/-- R115, R116: `OW_WRITE_ENABLE` performs the byte 0xD1, the pulse, or both, as `WE_FORM` says. -/
def Obligations.OwWriteEnableCompletes : Prop :=
  (∀ s : State, ∃ t, exec .owWriteEnable s = .next t ∧
    FinishedWith s t 0#16 ∧
    (s.cfg.weForm = .bytePlusPulse →
      t.bus.hist = s.bus.hist ++ (List.range 8).map (fun k => Event.writeSlot (0xD1#8 |>.getLsbD k)) ++ [.wePulse]) ∧
    (s.cfg.weForm = .byteOnly →
      t.bus.hist = s.bus.hist ++ (List.range 8).map (fun k => Event.writeSlot (0xD1#8 |>.getLsbD k))) ∧
    (s.cfg.weForm = .pulseOnly → t.bus.hist = s.bus.hist ++ [.wePulse]) ∧
    t.bus.env = s.bus.env ∧ SameOperands s t ∧ SameNvm s t) ∧
  decode 0x06000000#32 = .ok .owWriteEnable

/-! ## Bus protocols -/

/-- R120, R121: with presence, the expected family byte and a matching CRC, `OW_READ_ID` completes: one reset slot,
the byte 0x33 and 64 read slots; `IDBUF` and `RBBUF` hold the bytes received, byte 0 first. -/
def Obligations.OwReadIdSucceeds : Prop :=
  ∀ (s : State) (e : Env) (bits : List Bool) (rb : Vector Byte 8),
    s.bus.env.drawPresence = (true, e) → (Env.drawBits e 64).1 = bits → rb.toList = bytesOfBits 8 bits →
    rb[0] = s.cfg.familyCode → crc8 (rb.toList.take 7) = rb[7] →
    ∃ t, exec .owReadId s = .next t ∧ FinishedWith s t 0#16 ∧ t.regs.idbuf = rb ∧ t.regs.rbbuf = rb ∧
      t.bus.hist = s.bus.hist ++ [.resetSlot true] ++ readRomEvents bits ∧ t.bus.env = (Env.drawBits e 64).2 ∧
      t.regs.keyType = s.regs.keyType ∧ t.regs.namebuf = s.regs.namebuf ∧ t.regs.crc = s.regs.crc ∧ SameNvm s t

/-- R121, R122: the three failures of `OW_READ_ID` in their order of checking: no presence, a wrong family whatever
the CRC, a wrong CRC. `IDBUF` is kept; `RBBUF` holds the bytes received unless no presence was seen. Under legal
parameters family 0x02 is always wrong. -/
def Obligations.OwReadIdFailures : Prop :=
  (∀ (s : State) (e : Env), s.bus.env.drawPresence = (false, e) →
    ∃ t, exec .owReadId s = .next t ∧ FailedWith s t .noDevice ∧ SameOperands s t ∧ SameNvm s t ∧
      t.bus.hist = s.bus.hist ++ [.resetSlot false] ∧ t.bus.env = e) ∧
  (∀ (s : State) (e : Env) (bits : List Bool) (rb : Vector Byte 8),
    s.bus.env.drawPresence = (true, e) → (Env.drawBits e 64).1 = bits → rb.toList = bytesOfBits 8 bits →
    (rb[0] ≠ s.cfg.familyCode ∨ crc8 (rb.toList.take 7) ≠ rb[7]) →
    ∃ t, exec .owReadId s = .next t ∧
      (rb[0] ≠ s.cfg.familyCode → FailedWith s t (.wrongFamily rb[0])) ∧
      (rb[0] = s.cfg.familyCode → FailedWith s t .badChecksum) ∧
      (s.cfg.ok = true → rb[0] = 0x02#8 → FailedWith s t (.wrongFamily 0x02#8)) ∧
      t.regs.rbbuf = rb ∧ t.regs.idbuf = s.regs.idbuf ∧ t.regs.keyType = s.regs.keyType ∧
      t.regs.namebuf = s.regs.namebuf ∧ t.regs.crc = s.regs.crc ∧ SameNvm s t ∧
      t.bus.hist = s.bus.hist ++ [.resetSlot true] ++ readRomEvents bits ∧ t.bus.env = (Env.drawBits e 64).2)

/-- R123: `OW_READ_RAW` leaves the bytes received in `RBBUF` unchecked, or reports `NO_DEVICE`; `IDBUF` is never
written. -/
def Obligations.OwReadRawCompletes : Prop :=
  (∀ (s : State) (e : Env) (bits : List Bool) (rb : Vector Byte 8),
    s.bus.env.drawPresence = (true, e) → (Env.drawBits e 64).1 = bits → rb.toList = bytesOfBits 8 bits →
    ∃ t, exec .owReadRaw s = .next t ∧ FinishedWith s t 0#16 ∧ t.regs.rbbuf = rb ∧
      t.regs.idbuf = s.regs.idbuf ∧ t.regs.keyType = s.regs.keyType ∧ t.regs.namebuf = s.regs.namebuf ∧
      t.regs.crc = s.regs.crc ∧ SameNvm s t ∧
      t.bus.hist = s.bus.hist ++ [.resetSlot true] ++ readRomEvents bits ∧ t.bus.env = (Env.drawBits e 64).2) ∧
  (∀ (s : State) (e : Env), s.bus.env.drawPresence = (false, e) →
    ∃ t, exec .owReadRaw s = .next t ∧ FailedWith s t .noDevice ∧ SameOperands s t ∧ SameNvm s t ∧
      t.bus.hist = s.bus.hist ++ [.resetSlot false] ∧ t.bus.env = e) ∧
  decode 0x11000000#32 = .ok .owReadRaw

/-- R124, R125: with presence at both resets and a read-back equal to `IDBUF`, `OW_CLONE_WRITE` completes. The
history gains the write sequence (skip-ROM, write-enable, load-buffer, the identity with its fresh CRC,
write-enable) and the read-back. -/
def Obligations.OwCloneWriteSucceeds : Prop :=
  ∀ (s : State) (e1 e2 : Env) (bits : List Bool),
    s.bus.env.drawPresence = (true, e1) → e1.drawPresence = (true, e2) → (Env.drawBits e2 64).1 = bits →
    s.regs.idbuf.toList = bytesOfBits 8 bits →
    ∃ t, exec .owCloneWrite s = .next t ∧ FinishedWith s t 0#16 ∧ t.regs.rbbuf = s.regs.idbuf ∧
      t.regs.idbuf = s.regs.idbuf ∧ t.regs.keyType = s.regs.keyType ∧ t.regs.namebuf = s.regs.namebuf ∧
      t.regs.crc = s.regs.crc ∧ SameNvm s t ∧
      t.bus.hist = s.bus.hist ++ [.resetSlot true] ++ cloneEvents s.cfg s.regs.idbuf ++ [.resetSlot true]
        ++ readRomEvents bits ∧
      t.bus.env = (Env.drawBits e2 64).2

/-- R124 to R126: the failures of `OW_CLONE_WRITE`: no presence at the first reset (nothing sent), no presence at
the read-back reset (everything sent), a read-back that differs from `IDBUF`. So a stale CRC in `IDBUF[7]` fails on a
key that gives back exactly what it was sent. -/
def Obligations.OwCloneWriteFailures : Prop :=
  (∀ (s : State) (e : Env), s.bus.env.drawPresence = (false, e) →
    ∃ t, exec .owCloneWrite s = .next t ∧ FailedWith s t .noDevice ∧ SameOperands s t ∧ SameNvm s t ∧
      t.bus.hist = s.bus.hist ++ [.resetSlot false] ∧ t.bus.env = e) ∧
  (∀ (s : State) (e1 e2 : Env), s.bus.env.drawPresence = (true, e1) → e1.drawPresence = (false, e2) →
    ∃ t, exec .owCloneWrite s = .next t ∧ FailedWith s t .noDevice ∧ SameOperands s t ∧ SameNvm s t ∧
      t.bus.hist = s.bus.hist ++ [.resetSlot true] ++ cloneEvents s.cfg s.regs.idbuf ++ [.resetSlot false] ∧
      t.bus.env = e2) ∧
  (∀ (s : State) (e1 e2 : Env) (bits : List Bool) (rb : Vector Byte 8),
    s.bus.env.drawPresence = (true, e1) → e1.drawPresence = (true, e2) → (Env.drawBits e2 64).1 = bits →
    rb.toList = bytesOfBits 8 bits →
    (rb ≠ s.regs.idbuf ∨
      (s.regs.idbuf[7] ≠ crc8 (s.regs.idbuf.toList.take 7) ∧ bits = bitsOfBytes (cloneBytes s.regs.idbuf))) →
    ∃ t, exec .owCloneWrite s = .next t ∧ FailedWith s t .verifyMismatch ∧ t.regs.rbbuf = rb ∧
      t.regs.idbuf = s.regs.idbuf ∧ t.regs.keyType = s.regs.keyType ∧ t.regs.namebuf = s.regs.namebuf ∧
      t.regs.crc = s.regs.crc ∧ SameNvm s t ∧
      t.bus.hist = s.bus.hist ++ [.resetSlot true] ++ cloneEvents s.cfg s.regs.idbuf ++ [.resetSlot true]
        ++ readRomEvents bits)

/-- R128, R131: a first look that sees no reset ends the pass with `NO_RESET` at once. -/
def Obligations.EmulateNoReset : Prop :=
  ∀ (s : State) (x : LineSample) (e : Env), s.bus.env.drawSample = (x, e) → x ≠ .reset →
    ∃ t, exec .owEmulatePoll s = .next t ∧ FinishedWith s t 0x0000#16 ∧
      t.bus.hist = s.bus.hist ++ [.slaveSaw (sampleSeen x)] ∧ t.bus.env = e ∧ SameOperands s t ∧ SameNvm s t

/-- R128, R130, R131: after a reset and the command byte 0x33, 64 further slots, short or long, are each answered with
the next bit of `IDBUF`, byte 0 first and least significant bit first, and the pass ends with `IDENTITY_SENT`. -/
def Obligations.EmulateIdentitySent : Prop :=
  ∀ (s : State) (e : Env) (slots rest : List MasterEvent),
    s.bus.env.drawSample = (.reset, e) → e.masterAhead = (bitsOfByte 0x33#8).map slotFor ++ slots ++ rest →
    slots.length = 64 → (∀ x ∈ slots, x = .short ∨ x = .long) →
    ∃ t, exec .owEmulatePoll s = .next t ∧ FinishedWith s t 0x0002#16 ∧
      t.bus.hist = s.bus.hist ++ [.slaveSaw .reset, .slavePresence]
        ++ (bitsOfByte 0x33#8).map (fun b => Event.slaveSaw (masterSeen (slotFor b)))
        ++ ((slots.zip (bitsOfBytes s.regs.idbuf.toList)).map
            (fun p => [Event.slaveSaw (masterSeen p.1), Event.slaveBit p.2])).flatten ∧
      t.bus.env.master = rest ∧ SameOperands s t ∧ SameNvm s t

/-- R129, R131: any other command byte ends the pass with `OTHER_COMMAND` and the byte in `RESULT[15:8]`. -/
def Obligations.EmulateOtherCommand : Prop :=
  ∀ (s : State) (e : Env) (v : Byte) (rest : List MasterEvent),
    s.bus.env.drawSample = (.reset, e) → e.masterAhead = (bitsOfByte v).map slotFor ++ rest → v ≠ 0x33#8 →
    ∃ t, exec .owEmulatePoll s = .next t ∧ FinishedWith s t (BitVec.ofNat 16 (1 + 256 * v.toNat)) ∧
      t.bus.hist = s.bus.hist ++ [.slaveSaw .reset, .slavePresence]
        ++ (bitsOfByte v).map (fun b => Event.slaveSaw (masterSeen (slotFor b))) ∧
      t.bus.env.master = rest ∧ SameOperands s t ∧ SameNvm s t

/-- R133, R74, R160: a master that stops inside the command byte or inside the 64 identity slots. With a timeout the
pass ends with `TIMEOUT`, after the events of its slots. Without one the controller has no step (R74): the model
answers the same state (log entry 9, DESIGN CHOICE), and still does after any host access, so only a reset frees
the block. What the master sends is a finite list, then silence or resets without end (log entry 4, DEDUCED); in
the latter case the pass never ends either, timeout or not. -/
def Obligations.EmulateMasterStops : Prop :=
  ∀ (s : State) (e : Env) (pre tail : List MasterEvent),
    s.bus.env.drawSample = (.reset, e) → e.masterAhead = pre ++ tail → Unfinished pre →
    ((tail = [] ∨ ∃ r, tail = .silent :: r) →
      (s.cfg.emuSlotTimeout = none → exec .owEmulatePoll s = .next s ∧
        ∀ a, exec .owEmulatePoll (s.hostAccess a) = .next (s.hostAccess a)) ∧
      (∀ d, s.cfg.emuSlotTimeout = some d → ∃ t, exec .owEmulatePoll s = .next t ∧ FinishedWith s t 0x0003#16 ∧
        t.bus.hist = s.bus.hist ++ restartEvents ++ transactionEvents s.regs.idbuf pre ++ [.slaveSaw .timeout] ∧
        SameOperands s t ∧ SameNvm s t)) ∧
    ((∃ r, tail = .resets :: r) → exec .owEmulatePoll s = .next s ∧
      ∀ a, exec .owEmulatePoll (s.hostAccess a) = .next (s.hostAccess a))

/-- R131: a pass that ends reports no error, its code is 0 to 3, and `RESULT[15:8]` is 0 but for `OTHER_COMMAND`,
where it is a byte other than 0x33. -/
def Obligations.EmulateResultCodes : Prop :=
  ∀ s t : State, exec .owEmulatePoll s = .next t → s.seq.isBusy = true → t.seq = .idle →
    t.regs.status.errcode = 0x00#8 ∧ t.regs.result.toNat % 256 ≤ 3 ∧ t.regs.result.toNat < 65536 ∧
    (t.regs.result.toNat % 256 = 1 → t.regs.result.toNat / 256 ≠ 0x33) ∧
    (t.regs.result.toNat % 256 ≠ 1 → t.regs.result.toNat < 256)

/-- R132: a reset inside a transaction starts a new one in the same pass. The result is that of a pass `b` that begins
with that reset, and the history shows the first transaction as far as it came, then presence again and all that
the pass `b` shows. -/
def Obligations.EmulateRestart : Prop :=
  ∀ (s t t' : State) (b : Bus) (e e' : Env) (pre rest : List MasterEvent),
    s.bus.env.drawSample = (.reset, e) → e.masterAhead = pre ++ .reset :: rest → Unfinished pre →
    b.env.drawSample = (.reset, e') → e'.masterAhead = rest →
    exec .owEmulatePoll s = .next t → exec .owEmulatePoll (s.setBus b) = .next t' →
    t.regs.result = t'.regs.result ∧ t.seq = t'.seq ∧ t.regs.status = t'.regs.status ∧
    (s.seq.isBusy = true → t.seq = .idle → ∃ es, t'.bus.hist = b.hist ++ es ∧ restartEvents <+: es ∧
      t.bus.hist = s.bus.hist ++ restartEvents ++ transactionEvents s.regs.idbuf pre ++ es)

/-! ## Key store -/

/-- R46: the marker functions. -/
def Obligations.MarkerFunctions : Prop :=
  (∀ m : Byte, isTomb m = m.getLsbD 7 ∧ runlen m = m.toNat % 128) ∧
  (∀ l : Nat, 1 ≤ l → l ≤ 127 →
    marker l = 0x80#8 ||| BitVec.ofNat 8 l ∧ isTomb (marker l) = true ∧ runlen (marker l) = l) ∧
  (∀ t : Nat, t ≤ 127 → isTomb (BitVec.ofNat 8 t) = false)

/-- R89: `KS_COUNT` returns the stored counter, little-endian, whatever the table is. -/
def Obligations.KsCountCompletes : Prop :=
  (∀ s : State, ∃ t, exec .ksCount s = .next t ∧
    FinishedWith s t (BitVec.ofNat 16 ((s.nvm.read 0).toNat + 256 * (s.nvm.read 1).toNat)) ∧
    SameOperands s t ∧ SameNvm s t ∧ SameBus s t) ∧
  decode 0x30000000#32 = .ok .ksCount

/-- R101: `KS_SET_COUNT n` stores n in bytes 0 and 1, unchecked, and touches no other byte. -/
def Obligations.KsSetCountCompletes : Prop :=
  ∀ (n : Nat) (s : State), ∃ t, exec (.ksSetCount n) s = .next t ∧
    FinishedWith s t (BitVec.ofNat 16 n) ∧ t.nvm.read 0 = BitVec.ofNat 8 n ∧ t.nvm.read 1 = BitVec.ofNat 8 (n / 256) ∧
    (∀ a, 2 ≤ a → t.nvm.read a = s.nvm.read a) ∧ SameOperands s t ∧ SameBus s t

/-- R104: `KS_RESOLVE n` with n < count returns the slot `resolve(n)`, where the walk answers one; nothing else
changes. Where the walk faults, `KsWalkFaults` says what happens. -/
def Obligations.KsResolveCompletes : Prop :=
  (∀ (n p : Nat) (s : State), n < liveCount s.nvm → resolve s.nvm s.cfg.nslots n = .ok p →
    ∃ t, exec (.ksResolve n) s = .next t ∧ FinishedWith s t (BitVec.ofNat 16 p) ∧
      SameOperands s t ∧ SameNvm s t ∧ SameBus s t) ∧
  (∀ v : Half, decode (0x35000000#32 ||| v.setWidth 32) = .ok (.ksResolve v.toNat))

/-- R90: `KS_GET n` with n < count loads the record of slot `resolve(n)`: the type byte; the name to its first 0x00,
with 0x00 after it; the eight payload bytes. It returns the slot. -/
def Obligations.KsGetCompletes : Prop :=
  ∀ (n p : Nat) (s : State), n < liveCount s.nvm → resolve s.nvm s.cfg.nslots n = .ok p →
    ∃ t, exec (.ksGet n) s = .next t ∧ FinishedWith s t (BitVec.ofNat 16 p) ∧
      t.regs.keyType = s.nvm.read (2 + 41 * p) ∧ t.regs.keyType.getLsbD 7 = false ∧
      (∀ (k : Nat) (hk : k < 32),
        ((∀ j, j < k → s.nvm.read (2 + 41 * p + 1 + j) ≠ 0x00#8) →
          t.regs.namebuf[k] = s.nvm.read (2 + 41 * p + 1 + k)) ∧
        ((∃ j, j < k ∧ s.nvm.read (2 + 41 * p + 1 + j) = 0x00#8) → t.regs.namebuf[k] = 0x00#8)) ∧
      (∀ (j : Nat) (hj : j < 8), t.regs.idbuf[j] = s.nvm.read (2 + 41 * p + 33 + j)) ∧
      t.regs.rbbuf = s.regs.rbbuf ∧ t.regs.crc = s.regs.crc ∧ SameNvm s t ∧ SameBus s t

/-- R87: `KS_GET`, `KS_DELETE` and `KS_RESOLVE` with n ≥ count raise `INDEX_RANGE`, before any walk, with nothing
written. -/
def Obligations.KsIndexRange : Prop :=
  ∀ (n : Nat) (s : State) (i : Instr), i = .ksGet n ∨ i = .ksDelete n ∨ i = .ksResolve n → liveCount s.nvm ≤ n →
    ∃ t, exec i s = .next t ∧ FailedWith s t (.indexRange n) ∧ SameOperands s t ∧ SameNvm s t ∧ SameBus s t

/-- R82, R97, R146: the walk faults, in walk order, with nothing written. A fault of `resolve` ends `KS_GET` and
`KS_RESOLVE`; a fault of `logical_end`, then of `resolve`, then of the neighbour analysis, ends `KS_DELETE`. The walk
to index i answers the live slot it visits with i live slots below it; it raises `TABLE_OVERRUN(p)` exactly at a
visited p ≥ NSLOTS and `CORRUPT_MARKER(p)` exactly at a visited tombstone of length 0. `logical_end` faults as the walk
to the last index does. The neighbour analysis raises `CORRUPT_MARKER` at p - 1 for an empty left run or one longer
than p, and else at p + 1 for an empty right run or one that does not end before the last live slot. -/
def Obligations.KsWalkFaults : Prop :=
  (∀ (n : Nat) (s : State) (e : CmdError) (i : Instr), i = .ksGet n ∨ i = .ksResolve n →
    n < liveCount s.nvm → resolve s.nvm s.cfg.nslots n = .error e →
    ∃ t, exec i s = .next t ∧ FailedWith s t e ∧ SameOperands s t ∧ SameNvm s t ∧ SameBus s t) ∧
  (∀ (n : Nat) (s : State) (e : CmdError), n < liveCount s.nvm →
    (logicalEnd s.nvm s.cfg.nslots = .error e ∨
     (∃ le, logicalEnd s.nvm s.cfg.nslots = .ok le ∧ resolve s.nvm s.cfg.nslots n = .error e) ∨
     (∃ le p, logicalEnd s.nvm s.cfg.nslots = .ok le ∧ resolve s.nvm s.cfg.nslots n = .ok p ∧
       neighbours s.nvm p le = .error e)) →
    ∃ t, exec (.ksDelete n) s = .next t ∧ FailedWith s t e ∧ SameOperands s t ∧ SameNvm s t ∧ SameBus s t) ∧
  (∀ (m : Memory) (nslots i p : Nat), resolve m nslots i = .ok p ↔ Visited m nslots p i ∧ p < nslots ∧ ¬ Tomb m p) ∧
  (∀ (m : Memory) (nslots i : Nat) (e : CmdError), resolve m nslots i = .error e ↔
    ∃ p k, Visited m nslots p k ∧ k ≤ i ∧
      ((nslots ≤ p ∧ e = .tableOverrun p) ∨
       (p < nslots ∧ Tomb m p ∧ runlen (markerAt m p) = 0 ∧ e = .corruptMarker p))) ∧
  (∀ (m : Memory) (nslots : Nat) (e : CmdError), logicalEnd m nslots = .error e ↔
    0 < liveCount m ∧ resolve m nslots (liveCount m - 1) = .error e) ∧
  (∀ (m : Memory) (p le : Nat) (e : CmdError), neighbours m p le = .error e ↔
    (1 ≤ p ∧ Tomb m (p - 1) ∧ (runlen (markerAt m (p - 1)) = 0 ∨ p < runlen (markerAt m (p - 1))) ∧
      e = .corruptMarker (p - 1)) ∨
    (¬ (1 ≤ p ∧ Tomb m (p - 1) ∧ (runlen (markerAt m (p - 1)) = 0 ∨ p < runlen (markerAt m (p - 1)))) ∧
      p + 1 < le ∧ Tomb m (p + 1) ∧
      (runlen (markerAt m (p + 1)) = 0 ∨ le < p + runlen (markerAt m (p + 1)) + 2) ∧ e = .corruptMarker (p + 1)))

/-- R91 to R93: where an insert goes. With no tombstoned slot below the logical end: the slot at the logical end, with
the old count as index, or `STORE_FULL`. With a first tombstoned slot h that heads a run of L slots: a run of one
is consumed; a longer run loses its first slot under `Head` and its last under `Tail`, with both boundary markers
rewritten; the index is h. -/
def Obligations.InsertFirstFit : Prop :=
  ∀ (c : Config) (m : Memory) (le : Nat), logicalEnd m c.nslots = .ok le →
    ((∀ q, q < le → ¬ Tomb m q) →
      (le = c.nslots → chooseSlot c m = .error .storeFull) ∧
      (le ≠ c.nslots → chooseSlot c m = .ok { slot := le, index := liveCount m, marks := [] })) ∧
    (∀ h, h < le → Tomb m h → (∀ q, q < h → ¬ Tomb m q) → ∀ l, runlen (markerAt m h) = l → 1 ≤ l → h + l + 1 ≤ le →
      (l = 1 → chooseSlot c m = .ok { slot := h, index := h, marks := [] }) ∧
      (1 < l → c.insertRunEnd = .head →
        chooseSlot c m = .ok { slot := h, index := h, marks := [(h + 1, l - 1), (h + l - 1, l - 1)] }) ∧
      (1 < l → c.insertRunEnd = .tail →
        chooseSlot c m = .ok { slot := h + l - 1, index := h, marks := [(h, l - 1), (h + l - 2, l - 1)] }))

/-- R88, R94: an insert that passes its checks. The result is the chosen index; the counter grows by one; the type,
the name with its terminator (n is the terminator's place) and the eight identity bytes are in the chosen slot; the
boundary markers are rewritten; every other byte of the NVM is as before. -/
def Obligations.KsInsertCompletes : Prop :=
  ∀ (s : State) (n : Nat) (hn : n < 32) (x : InsertChoice), s.cfg.ok = true → s.regs.keyType.getLsbD 7 = false →
    s.regs.namebuf[n] = 0x00#8 → (∀ (k : Nat) (hk : k < n), s.regs.namebuf[k] ≠ 0x00#8) →
    chooseSlot s.cfg s.nvm = .ok x →
    ∃ t, exec .ksInsert s = .next t ∧ FinishedWith s t (BitVec.ofNat 16 x.index) ∧
      liveCount t.nvm = liveCount s.nvm + 1 ∧
      t.nvm.read (slotAddr x.slot) = s.regs.keyType ∧
      (∀ (k : Nat) (hk : k ≤ n), t.nvm.read (slotAddr x.slot + 1 + k) = s.regs.namebuf[k]) ∧
      (∀ (j : Nat) (hj : j < 8), t.nvm.read (slotAddr x.slot + 33 + j) = s.regs.idbuf[j]) ∧
      (∀ q ∈ x.marks, t.nvm.read (slotAddr q.1) = marker q.2) ∧
      (∀ a, 2 ≤ a → ¬ (slotAddr x.slot ≤ a ∧ a ≤ slotAddr x.slot + 1 + n) →
        ¬ (slotAddr x.slot + 33 ≤ a ∧ a ≤ slotAddr x.slot + 40) → (∀ q ∈ x.marks, a ≠ slotAddr q.1) →
        t.nvm.read a = s.nvm.read a) ∧
      SameOperands s t ∧ SameBus s t

/-- R94, R92, R146: the refusals of an insert in their order: `BAD_TYPE`, `BAD_NAME`, then the fault of the walk, of the
full store or of the chosen run. Nothing is written. For a logical end le, a first tombstoned slot h whose run is
empty or does not end before the last live slot gives `CORRUPT_MARKER(h)`. Under the table's own logical end the walk
has already passed that run, so the choice of slot fails only with a fault of the walk or with `STORE_FULL`. -/
def Obligations.KsInsertRefusals : Prop :=
  (∀ s : State, s.regs.keyType.getLsbD 7 = true →
    ∃ t, exec .ksInsert s = .next t ∧ FailedWith s t (.badType s.regs.keyType) ∧
      SameOperands s t ∧ SameNvm s t ∧ SameBus s t) ∧
  (∀ s : State, s.regs.keyType.getLsbD 7 = false → (∀ (k : Nat) (hk : k < 32), s.regs.namebuf[k] ≠ 0x00#8) →
    ∃ t, exec .ksInsert s = .next t ∧ FailedWith s t .badName ∧ SameOperands s t ∧ SameNvm s t ∧ SameBus s t) ∧
  (∀ (s : State) (n : Nat) (hn : n < 32) (e : CmdError), s.regs.keyType.getLsbD 7 = false →
    s.regs.namebuf[n] = 0x00#8 → chooseSlot s.cfg s.nvm = .error e →
    ∃ t, exec .ksInsert s = .next t ∧ FailedWith s t e ∧ SameOperands s t ∧ SameNvm s t ∧ SameBus s t) ∧
  (∀ (c : Config) (m : Memory) (le h : Nat), h < le → Tomb m h → (∀ q, q < h → ¬ Tomb m q) →
    (runlen (markerAt m h) = 0 ∨ le < h + runlen (markerAt m h) + 1) → chooseBelow c m le = .error (.corruptMarker h)) ∧
  (∀ (c : Config) (m : Memory) (e : CmdError), chooseSlot c m = .error e ↔
    logicalEnd m c.nslots = .error e ∨
    (logicalEnd m c.nslots = .ok c.nslots ∧ (∀ q, q < c.nslots → ¬ Tomb m q) ∧ e = .storeFull))

/-- R98, R99: a delete that passes its checks, with runs of l and r slots beside the freed slot p. The result is p; the
counter falls by one; slot p becomes a run of one, or the head and the tail of the merged run carry its length
and p keeps 0x81 where it is interior; every other byte of the NVM is as before. -/
def Obligations.KsDeleteCompletes : Prop :=
  ∀ (n : Nat) (s : State) (le p l r : Nat), n < liveCount s.nvm → logicalEnd s.nvm s.cfg.nslots = .ok le →
    resolve s.nvm s.cfg.nslots n = .ok p → neighbours s.nvm p le = .ok (l, r) →
    ∃ t, exec (.ksDelete n) s = .next t ∧ FinishedWith s t (BitVec.ofNat 16 p) ∧
      liveCount t.nvm + 1 = liveCount s.nvm ∧
      (l = 0 → r = 0 → t.nvm.read (slotAddr p) = 0x81#8) ∧
      (0 < l ∨ 0 < r → t.nvm.read (slotAddr (p - l)) = marker (l + 1 + r) ∧
        t.nvm.read (slotAddr (p + r)) = marker (l + 1 + r)) ∧
      (0 < l → 0 < r → t.nvm.read (slotAddr p) = 0x81#8) ∧
      (∀ a, 2 ≤ a → a ≠ slotAddr p → a ≠ slotAddr (p - l) → a ≠ slotAddr (p + r) → t.nvm.read a = s.nvm.read a) ∧
      SameOperands s t ∧ SameBus s t

/-- R48, R96: a successful insert keeps the table well formed, and the count grows by one. -/
def Obligations.InsertKeepsTable : Prop :=
  ∀ s t : State, s.cfg.ok = true → TableWF s.cfg.nslots s.nvm → exec .ksInsert s = .next t →
    t.regs.status.err = false →
    TableWF t.cfg.nslots t.nvm ∧ liveCount t.nvm = liveCount s.nvm + 1

/-- R48, R100: a successful delete keeps the table well formed, and the count falls by one. -/
def Obligations.DeleteKeepsTable : Prop :=
  ∀ (n : Nat) (s t : State), s.cfg.ok = true → TableWF s.cfg.nslots s.nvm → exec (.ksDelete n) s = .next t →
    t.regs.status.err = false →
    TableWF t.cfg.nslots t.nvm ∧ liveCount t.nvm + 1 = liveCount s.nvm

/-- R103: `KS_GET` of the index a successful `KS_INSERT` returned gives the record back: the same type, the same eight
identity bytes, the same name up to its terminator and 0x00 after it. -/
def Obligations.InsertThenGet : Prop :=
  ∀ s t u : State, s.cfg.ok = true → exec .ksInsert s = .next t → t.regs.status.err = false →
    u.cfg = t.cfg → u.nvm = t.nvm →
    ∃ v, exec (.ksGet t.regs.result.toNat) u = .next v ∧ v.regs.status.err = false ∧
      v.regs.keyType = s.regs.keyType ∧ v.regs.idbuf = s.regs.idbuf ∧
      (∀ (k : Nat) (hk : k < 32),
        ((∀ (j : Nat) (hj : j < k), s.regs.namebuf[j] ≠ 0x00#8) → v.regs.namebuf[k] = s.regs.namebuf[k]) ∧
        ((∃ (j : Nat) (hj : j < k), s.regs.namebuf[j] = 0x00#8) → v.regs.namebuf[k] = 0x00#8))

/-- R102, R86, R82: `resolve` is strictly increasing and answers live slots inside the table; on a well-formed table it
answers for every index below the count, with the slot that has exactly that many live slots below it. -/
def Obligations.ResolveCountsLiveSlots : Prop :=
  (∀ (m : Memory) (nslots i j p q : Nat), resolve m nslots i = .ok p → resolve m nslots j = .ok q → i < j → p < q) ∧
  (∀ (m : Memory) (nslots i p : Nat), resolve m nslots i = .ok p → p < nslots ∧ ¬ Tomb m p) ∧
  (∀ (m : Memory) (nslots i : Nat), TableWF nslots m → i < liveCount m →
    ∃ p, resolve m nslots i = .ok p ∧ logicalOf m p = i)

/-- R166, R167: after `KS_SET_COUNT 0` the table is well formed and empty whatever the slot bytes hold, and `KS_COUNT`
returns 0. -/
def Obligations.FormatMakesTable : Prop :=
  ∀ s : State, ∃ t u, exec (.ksSetCount 0) s = .next t ∧ TableWF t.cfg.nslots t.nvm ∧ liveCount t.nvm = 0 ∧
    exec .ksCount t = .next u ∧ u.regs.status.err = false ∧ u.regs.result = 0#32

/-! ## The host's side -/

/-- R35, R38, R17: an access at an offset of the block that is not legal is refused: `HAZARD` and `FAULT` are set, `FREC`
gains the access, a read returns 0, and nothing else changes. By the offsets of R17, a read is refused at 0x0D to
0x0F and from 0x41 up; a write also at `STATUS` and `RESULT` (0x04 to 0x0B), `RBBUF` (0x18 to 0x1F) and `CRC` (0x40), and at
0x00 to 0x03 but for the 4-byte write at 0x00. An access that starts below `BASE` and reaches it lies in no one
register and is refused too: the spec names no such offset, and that R35 and R38 cover it is the model's reading (log
entry 14, DEDUCED). -/
def Obligations.HostErrorRefused : Prop :=
  (∀ (s : State) (off width : Nat) (rest : List Input),
    s.agenda = .host (.read (s.cfg.base + off) width) :: rest →
    ((¬ ∃ r, LegalRead r off width) ∨ (0x0D ≤ off ∧ off ≤ 0x0F) ∨ 0x41 ≤ off) →
    step s = .next { s with
      agenda := rest, rdata := 0#32
      regs := { s.regs with status := { s.regs.status with hazard := true, fault := true } }
      frec := s.frec ++ [.hostError (.read (s.cfg.base + off) width)] }) ∧
  (∀ (s : State) (off width : Nat) (v : Word) (rest : List Input),
    s.agenda = .host (.write (s.cfg.base + off) width v) :: rest →
    ((¬ ∃ r, LegalWrite s.regs.status.busy r off width) ∨ (0x04 ≤ off ∧ off ≤ 0x0B) ∨ (0x0D ≤ off ∧ off ≤ 0x0F) ∨
      (0x18 ≤ off ∧ off ≤ 0x1F) ∨ 0x40 ≤ off ∨ (off ≤ 0x03 ∧ ¬ (off = 0x00 ∧ width = 4))) →
    step s = .next { s with
      agenda := rest
      regs := { s.regs with status := { s.regs.status with hazard := true, fault := true } }
      frec := s.frec ++ [.hostError (.write (s.cfg.base + off) width v)] }) ∧
  (∀ (s : State) (addr width : Nat) (rest : List Input),
    s.agenda = .host (.read addr width) :: rest → addr < s.cfg.base → s.cfg.base < addr + width →
    step s = .next { s with
      agenda := rest, rdata := 0#32
      regs := { s.regs with status := { s.regs.status with hazard := true, fault := true } }
      frec := s.frec ++ [.hostError (.read addr width)] }) ∧
  (∀ (s : State) (addr width : Nat) (v : Word) (rest : List Input),
    s.agenda = .host (.write addr width v) :: rest → addr < s.cfg.base → s.cfg.base < addr + width →
    step s = .next { s with
      agenda := rest
      regs := { s.regs with status := { s.regs.status with hazard := true, fault := true } }
      frec := s.frec ++ [.hostError (.write addr width v)] })

/-- R36, R37: a legal read, of `STATUS` or while not busy, returns the register's bytes little-endian, and changes
nothing. R17: `CMD`, `STATUS` and `RESULT` are the words at 0x00, 0x04 and 0x08, `TYPE` and `CRC` the bytes at 0x0C and
0x40, and byte j of `IDBUF`, `RBBUF` and `NAMEBUF` is at 0x10 + j, 0x18 + j and 0x20 + j. -/
def Obligations.RegisterReads : Prop :=
  (∀ (s : State) (r : RegSpan) (off width : Nat) (rest : List Input),
    s.agenda = .host (.read (s.cfg.base + off) width) :: rest → LegalRead r off width →
    (s.regs.status.busy = false ∨ r.name = .status) →
    ∃ v : Word, step s = .next { s with agenda := rest, rdata := v } ∧
      (∀ k, k < width → v.extractLsb' (8 * k) 8 = s.regs.byteOf r.name (off - r.first + k)) ∧
      v.toNat < 2 ^ (8 * width)) ∧
  (∀ (s : State) (off width : Nat) (rest : List Input),
    s.agenda = .host (.read (s.cfg.base + off) width) :: rest → s.regs.status.busy = false →
    (off = 0x00 → width = 4 → step s = .next { s with agenda := rest, rdata := s.regs.cmd }) ∧
    (off = 0x04 → width = 4 → step s = .next { s with agenda := rest, rdata := s.regs.status.word }) ∧
    (off = 0x08 → width = 4 → step s = .next { s with agenda := rest, rdata := s.regs.result }) ∧
    (off = 0x0C → width = 1 → step s = .next { s with agenda := rest, rdata := s.regs.keyType.setWidth 32 }) ∧
    (off = 0x40 → width = 1 → step s = .next { s with agenda := rest, rdata := s.regs.crc.setWidth 32 }) ∧
    (∀ (j : Nat) (hj : j < 8), off = 0x10 + j → width = 1 →
      step s = .next { s with agenda := rest, rdata := s.regs.idbuf[j].setWidth 32 }) ∧
    (∀ (j : Nat) (hj : j < 8), off = 0x18 + j → width = 1 →
      step s = .next { s with agenda := rest, rdata := s.regs.rbbuf[j].setWidth 32 }) ∧
    (∀ (k : Nat) (hk : k < 32), off = 0x20 + k → width = 1 →
      step s = .next { s with agenda := rest, rdata := s.regs.namebuf[k].setWidth 32 }))

/-- R39: a legal read of a register other than `STATUS` while busy returns a free value of its width, and changes no
part of the block; a read of all of `STATUS` returns the true word, with `BUSY` = 1. That the free value is one of a
numbered sequence, and its count is apart from the bus, is the model's choice (log entry 5, DESIGN CHOICE). -/
def Obligations.BusyReads : Prop :=
  (∀ (s : State) (r : RegSpan) (off width : Nat) (rest : List Input),
    s.agenda = .host (.read (s.cfg.base + off) width) :: rest → LegalRead r off width →
    s.regs.status.busy = true → r.name ≠ .status →
    ∃ t, step s = .next t ∧
      t.rdata = BitVec.ofNat 32 ((Config.freeRead s.reads).toNat % 2 ^ (8 * width)) ∧
      t.regs = s.regs ∧ t.seq = s.seq ∧ t.nvm = s.nvm ∧ t.bus = s.bus ∧
      t.frec = s.frec ∧ t.cfg = s.cfg ∧ t.agenda = rest) ∧
  (∀ (s : State) (rest : List Input), s.agenda = .host (.read (s.cfg.base + 4) 4) :: rest →
    s.regs.status.busy = true →
    step s = .next { s with agenda := rest, rdata := s.regs.status.word } ∧ s.regs.status.word.getLsbD 0 = true)

/-- R35, R37: a legal write to `TYPE`, `IDBUF` or `NAMEBUF` stores its bytes little-endian; every other byte of every
register, and everything else, is as before. R17: a byte written at 0x0C goes to `TYPE`, one at 0x10 + j to byte j of
`IDBUF`, and one at 0x20 + k to byte k of `NAMEBUF`. -/
def Obligations.RegisterWrites : Prop :=
  (∀ (s : State) (r : RegSpan) (off width : Nat) (v : Word) (rest : List Input),
    s.agenda = .host (.write (s.cfg.base + off) width v) :: rest →
    LegalWrite s.regs.status.busy r off width → r.access = .readWrite →
    ∃ t, step s = .next t ∧ t = { s with agenda := rest, regs := t.regs } ∧
      (∀ k, k < width → t.regs.byteOf r.name (off - r.first + k) = v.extractLsb' (8 * k) 8) ∧
      (∀ q ∈ registerMap, ∀ k, k < q.size →
        ¬ (q.name = r.name ∧ off - r.first ≤ k ∧ k < off - r.first + width) →
        t.regs.byteOf q.name k = s.regs.byteOf q.name k) ∧
      t.regs.status = s.regs.status) ∧
  (∀ (s : State) (off : Nat) (v : Word) (rest : List Input),
    s.agenda = .host (.write (s.cfg.base + off) 1 v) :: rest → s.regs.status.busy = false →
    (off = 0x0C →
      step s = .next { s with agenda := rest, regs := { s.regs with keyType := v.extractLsb' 0 8 } }) ∧
    (∀ (j : Nat) (hj : j < 8), off = 0x10 + j →
      step s = .next { s with agenda := rest, regs := { s.regs with idbuf := s.regs.idbuf.set j (v.extractLsb' 0 8) } }) ∧
    (∀ (k : Nat) (hk : k < 32), off = 0x20 + k →
      step s = .next { s with
        agenda := rest, regs := { s.regs with namebuf := s.regs.namebuf.set k (v.extractLsb' 0 8) } }))

/-! ## Reset -/

/-- R29, R161: a reset, whatever is running, leaves every register 0, `SEQ` idle and the line released; `FREC` and the
history so far are kept. The NVM is unchanged where no NVM write was running: the block is idle, the word is
`ILLEGAL`, the command writes no NVM, or its checks fail. The history is unchanged where the block is idle or the word
is `ILLEGAL`. -/
def Obligations.ResetClearsRegisters : Prop :=
  ∀ (s : State) (cut : Truncation) (rest : List Input), s.agenda = .reset cut :: rest →
    ∃ t, step s = .next t ∧
      (∀ q ∈ registerMap, ∀ k, k < q.size → t.regs.byteOf q.name k = 0x00#8) ∧
      t.regs.status.word = 0#32 ∧ t.seq = .idle ∧ t.bus.line = .released ∧ t.frec = s.frec ∧
      s.bus.hist <+: t.bus.hist ∧ t.cfg = s.cfg ∧ t.agenda = rest ∧ t.rdata = s.rdata ∧ t.reads = s.reads ∧
      (s.seq = .idle → SameNvm s t ∧ t.bus.hist = s.bus.hist) ∧
      (∀ w e, s.seq = .busy w → decode w = .error e → SameNvm s t ∧ t.bus.hist = s.bus.hist) ∧
      (∀ w i, s.seq = .busy w → decode w = .ok i →
        ((i ≠ .ksInsert ∧ (∀ n, i ≠ .ksDelete n) ∧ (∀ n, i ≠ .ksSetCount n)) ∨
         (i = .ksInsert ∧ ∃ e, insertPlan s.cfg s.regs s.nvm = .error e) ∨
         (∃ n e, i = .ksDelete n ∧ deletePlan s.cfg.nslots s.nvm n = .error e)) → SameNvm s t)

/-- R162, R163: a reset while a command runs. Of the bus slots the command would have performed, the completed ones
stay in the history, with `Truncated` after them if the next one was in progress. Of the byte writes of a key-store
command, the first j are applied and the byte the next one targets holds any value. So it is for a pass of
`OW_EMULATE_POLL` that would end, for one that waits for a master that has stopped, and for one whose master restarts
it without end. That the reset input says where it cuts, and that each event of the history counts as one slot, is
the model's choice (log entries 4, 9 and 10, DESIGN CHOICE and DEDUCED). -/
def Obligations.ResetCutsCommand : Prop :=
  (∀ (s u : State) (w : Word) (i : Instr) (cut : Truncation) (rest : List Input) (es : List Event),
    s.agenda = .reset cut :: rest → s.seq = .busy w → decode w = .ok i → exec i s = .next u → u.seq = .idle →
    u.bus.hist = s.bus.hist ++ es →
    ∃ t, step s = .next t ∧
      t.bus.hist = s.bus.hist ++ es.take cut.slots ++
        (if cut.inSlot = true ∧ cut.slots < es.length then [.truncated] else [])) ∧
  (∀ (s : State) (w : Word) (i : Instr) (plan : StorePlan) (cut : Truncation) (rest : List Input),
    s.agenda = .reset cut :: rest → s.seq = .busy w → decode w = .ok i →
    ((i = .ksInsert ∧ insertPlan s.cfg s.regs s.nvm = .ok plan) ∨
     (∃ n, i = .ksDelete n ∧ deletePlan s.cfg.nslots s.nvm n = .ok plan) ∨
     (∃ n, i = .ksSetCount n ∧ plan = setCountPlan n)) →
    ∃ t, step s = .next t ∧
      (∀ a, (∀ h : cut.writes < plan.writes.length, a ≠ plan.writes[cut.writes].1) →
        t.nvm.read a = (s.nvm.storeAll (plan.writes.take cut.writes)).read a) ∧
      (∀ h : cut.writes < plan.writes.length, t.nvm.read plan.writes[cut.writes].1 = cut.torn)) ∧
  (∀ (s : State) (w : Word) (cut : Truncation) (rest : List Input) (e : Env) (pre tail : List MasterEvent),
    s.agenda = .reset cut :: rest → s.seq = .busy w → decode w = .ok .owEmulatePoll →
    s.bus.env.drawSample = (.reset, e) → e.masterAhead = pre ++ tail → Unfinished pre →
    (s.cfg.emuSlotTimeout = none → (tail = [] ∨ ∃ r, tail = .silent :: r) →
      ∃ t, step s = .next t ∧
        t.bus.hist = s.bus.hist ++ (restartEvents ++ transactionEvents s.regs.idbuf pre).take cut.slots ++
          (if cut.inSlot = true then [.truncated] else [])) ∧
    ((∃ r, tail = .resets :: r) →
      ∃ t, step s = .next t ∧
        t.bus.hist = s.bus.hist ++ (restartEvents ++ transactionEvents s.regs.idbuf pre ++
          (List.replicate cut.slots restartEvents).flatten).take cut.slots ++
          (if cut.inSlot = true then [.truncated] else [])))

/-! ## Invariants of every step -/

/-- R29 with the invariant `State.Consistent`: the state after reset meets it. Its empty history, fault record, NVM
listing and parameters are the model's choices (log entries 1, 2, 6). -/
def Obligations.ConsistentAtReset : Prop := State.reset.Consistent

/-- R19, R20, R21, R24, R26, R34, R41: every step from a consistent state, a host access, a command or a reset, leads
to a consistent state. -/
def Obligations.ConsistentKept : Prop :=
  ∀ s t : State, s.Consistent → step s = .next t → t.Consistent

/-- R26, R27, R149: no step removes or changes an entry of `FREC` or an event of `H`, and none changes a parameter. -/
def Obligations.RecordsOnlyGrow : Prop :=
  ∀ s t : State, step s = .next t → s.frec <+: t.frec ∧ s.bus.hist <+: t.bus.hist ∧ t.cfg = s.cfg
end

