-- ==== Sys2Proof/Laws/State.lean ====
section
/-! SUPPORT. One lemma per field per update of the state, each true by rfl, so that no proof unfolds a record
update. -/

namespace Sys2Proof.Machine

/-! `setKeyType` -/

@[simp] theorem State.setKeyType_cfg (s : State) (t : Byte) : (s.setKeyType t).cfg = s.cfg := rfl
@[simp] theorem State.setKeyType_seq (s : State) (t : Byte) : (s.setKeyType t).seq = s.seq := rfl
@[simp] theorem State.setKeyType_bus (s : State) (t : Byte) : (s.setKeyType t).bus = s.bus := rfl
@[simp] theorem State.setKeyType_nvm (s : State) (t : Byte) : (s.setKeyType t).nvm = s.nvm := rfl
@[simp] theorem State.setKeyType_frec (s : State) (t : Byte) : (s.setKeyType t).frec = s.frec := rfl
@[simp] theorem State.setKeyType_agenda (s : State) (t : Byte) : (s.setKeyType t).agenda = s.agenda := rfl
@[simp] theorem State.setKeyType_rdata (s : State) (t : Byte) : (s.setKeyType t).rdata = s.rdata := rfl
@[simp] theorem State.setKeyType_reads (s : State) (t : Byte) : (s.setKeyType t).reads = s.reads := rfl
@[simp] theorem State.setKeyType_cmd (s : State) (t : Byte) : (s.setKeyType t).regs.cmd = s.regs.cmd := rfl
@[simp] theorem State.setKeyType_status (s : State) (t : Byte) : (s.setKeyType t).regs.status = s.regs.status := rfl
@[simp] theorem State.setKeyType_result (s : State) (t : Byte) : (s.setKeyType t).regs.result = s.regs.result := rfl
@[simp] theorem State.setKeyType_keyType (s : State) (t : Byte) : (s.setKeyType t).regs.keyType = t := rfl
@[simp] theorem State.setKeyType_idbuf (s : State) (t : Byte) : (s.setKeyType t).regs.idbuf = s.regs.idbuf := rfl
@[simp] theorem State.setKeyType_rbbuf (s : State) (t : Byte) : (s.setKeyType t).regs.rbbuf = s.regs.rbbuf := rfl
@[simp] theorem State.setKeyType_namebuf (s : State) (t : Byte) : (s.setKeyType t).regs.namebuf = s.regs.namebuf := rfl
@[simp] theorem State.setKeyType_crc (s : State) (t : Byte) : (s.setKeyType t).regs.crc = s.regs.crc := rfl

/-! `setIdbuf` -/

@[simp] theorem State.setIdbuf_cfg (s : State) (id : Vector Byte 8) : (s.setIdbuf id).cfg = s.cfg := rfl
@[simp] theorem State.setIdbuf_seq (s : State) (id : Vector Byte 8) : (s.setIdbuf id).seq = s.seq := rfl
@[simp] theorem State.setIdbuf_bus (s : State) (id : Vector Byte 8) : (s.setIdbuf id).bus = s.bus := rfl
@[simp] theorem State.setIdbuf_nvm (s : State) (id : Vector Byte 8) : (s.setIdbuf id).nvm = s.nvm := rfl
@[simp] theorem State.setIdbuf_frec (s : State) (id : Vector Byte 8) : (s.setIdbuf id).frec = s.frec := rfl
@[simp] theorem State.setIdbuf_agenda (s : State) (id : Vector Byte 8) : (s.setIdbuf id).agenda = s.agenda := rfl
@[simp] theorem State.setIdbuf_rdata (s : State) (id : Vector Byte 8) : (s.setIdbuf id).rdata = s.rdata := rfl
@[simp] theorem State.setIdbuf_reads (s : State) (id : Vector Byte 8) : (s.setIdbuf id).reads = s.reads := rfl
@[simp] theorem State.setIdbuf_cmd (s : State) (id : Vector Byte 8) : (s.setIdbuf id).regs.cmd = s.regs.cmd := rfl
@[simp] theorem State.setIdbuf_status (s : State) (id : Vector Byte 8) : (s.setIdbuf id).regs.status = s.regs.status := rfl
@[simp] theorem State.setIdbuf_result (s : State) (id : Vector Byte 8) : (s.setIdbuf id).regs.result = s.regs.result := rfl
@[simp] theorem State.setIdbuf_keyType (s : State) (id : Vector Byte 8) : (s.setIdbuf id).regs.keyType = s.regs.keyType := rfl
@[simp] theorem State.setIdbuf_idbuf (s : State) (id : Vector Byte 8) : (s.setIdbuf id).regs.idbuf = id := rfl
@[simp] theorem State.setIdbuf_rbbuf (s : State) (id : Vector Byte 8) : (s.setIdbuf id).regs.rbbuf = s.regs.rbbuf := rfl
@[simp] theorem State.setIdbuf_namebuf (s : State) (id : Vector Byte 8) : (s.setIdbuf id).regs.namebuf = s.regs.namebuf := rfl
@[simp] theorem State.setIdbuf_crc (s : State) (id : Vector Byte 8) : (s.setIdbuf id).regs.crc = s.regs.crc := rfl

/-! `setRbbuf` -/

@[simp] theorem State.setRbbuf_cfg (s : State) (rb : Vector Byte 8) : (s.setRbbuf rb).cfg = s.cfg := rfl
@[simp] theorem State.setRbbuf_seq (s : State) (rb : Vector Byte 8) : (s.setRbbuf rb).seq = s.seq := rfl
@[simp] theorem State.setRbbuf_bus (s : State) (rb : Vector Byte 8) : (s.setRbbuf rb).bus = s.bus := rfl
@[simp] theorem State.setRbbuf_nvm (s : State) (rb : Vector Byte 8) : (s.setRbbuf rb).nvm = s.nvm := rfl
@[simp] theorem State.setRbbuf_frec (s : State) (rb : Vector Byte 8) : (s.setRbbuf rb).frec = s.frec := rfl
@[simp] theorem State.setRbbuf_agenda (s : State) (rb : Vector Byte 8) : (s.setRbbuf rb).agenda = s.agenda := rfl
@[simp] theorem State.setRbbuf_rdata (s : State) (rb : Vector Byte 8) : (s.setRbbuf rb).rdata = s.rdata := rfl
@[simp] theorem State.setRbbuf_reads (s : State) (rb : Vector Byte 8) : (s.setRbbuf rb).reads = s.reads := rfl
@[simp] theorem State.setRbbuf_cmd (s : State) (rb : Vector Byte 8) : (s.setRbbuf rb).regs.cmd = s.regs.cmd := rfl
@[simp] theorem State.setRbbuf_status (s : State) (rb : Vector Byte 8) : (s.setRbbuf rb).regs.status = s.regs.status := rfl
@[simp] theorem State.setRbbuf_result (s : State) (rb : Vector Byte 8) : (s.setRbbuf rb).regs.result = s.regs.result := rfl
@[simp] theorem State.setRbbuf_keyType (s : State) (rb : Vector Byte 8) : (s.setRbbuf rb).regs.keyType = s.regs.keyType := rfl
@[simp] theorem State.setRbbuf_idbuf (s : State) (rb : Vector Byte 8) : (s.setRbbuf rb).regs.idbuf = s.regs.idbuf := rfl
@[simp] theorem State.setRbbuf_rbbuf (s : State) (rb : Vector Byte 8) : (s.setRbbuf rb).regs.rbbuf = rb := rfl
@[simp] theorem State.setRbbuf_namebuf (s : State) (rb : Vector Byte 8) : (s.setRbbuf rb).regs.namebuf = s.regs.namebuf := rfl
@[simp] theorem State.setRbbuf_crc (s : State) (rb : Vector Byte 8) : (s.setRbbuf rb).regs.crc = s.regs.crc := rfl

/-! `setNamebuf` -/

@[simp] theorem State.setNamebuf_cfg (s : State) (nm : Vector Byte 32) : (s.setNamebuf nm).cfg = s.cfg := rfl
@[simp] theorem State.setNamebuf_seq (s : State) (nm : Vector Byte 32) : (s.setNamebuf nm).seq = s.seq := rfl
@[simp] theorem State.setNamebuf_bus (s : State) (nm : Vector Byte 32) : (s.setNamebuf nm).bus = s.bus := rfl
@[simp] theorem State.setNamebuf_nvm (s : State) (nm : Vector Byte 32) : (s.setNamebuf nm).nvm = s.nvm := rfl
@[simp] theorem State.setNamebuf_frec (s : State) (nm : Vector Byte 32) : (s.setNamebuf nm).frec = s.frec := rfl
@[simp] theorem State.setNamebuf_agenda (s : State) (nm : Vector Byte 32) : (s.setNamebuf nm).agenda = s.agenda := rfl
@[simp] theorem State.setNamebuf_rdata (s : State) (nm : Vector Byte 32) : (s.setNamebuf nm).rdata = s.rdata := rfl
@[simp] theorem State.setNamebuf_reads (s : State) (nm : Vector Byte 32) : (s.setNamebuf nm).reads = s.reads := rfl
@[simp] theorem State.setNamebuf_cmd (s : State) (nm : Vector Byte 32) : (s.setNamebuf nm).regs.cmd = s.regs.cmd := rfl
@[simp] theorem State.setNamebuf_status (s : State) (nm : Vector Byte 32) : (s.setNamebuf nm).regs.status = s.regs.status := rfl
@[simp] theorem State.setNamebuf_result (s : State) (nm : Vector Byte 32) : (s.setNamebuf nm).regs.result = s.regs.result := rfl
@[simp] theorem State.setNamebuf_keyType (s : State) (nm : Vector Byte 32) : (s.setNamebuf nm).regs.keyType = s.regs.keyType := rfl
@[simp] theorem State.setNamebuf_idbuf (s : State) (nm : Vector Byte 32) : (s.setNamebuf nm).regs.idbuf = s.regs.idbuf := rfl
@[simp] theorem State.setNamebuf_rbbuf (s : State) (nm : Vector Byte 32) : (s.setNamebuf nm).regs.rbbuf = s.regs.rbbuf := rfl
@[simp] theorem State.setNamebuf_namebuf (s : State) (nm : Vector Byte 32) : (s.setNamebuf nm).regs.namebuf = nm := rfl
@[simp] theorem State.setNamebuf_crc (s : State) (nm : Vector Byte 32) : (s.setNamebuf nm).regs.crc = s.regs.crc := rfl

/-! `setCrc` -/

@[simp] theorem State.setCrc_cfg (s : State) (c : Byte) : (s.setCrc c).cfg = s.cfg := rfl
@[simp] theorem State.setCrc_seq (s : State) (c : Byte) : (s.setCrc c).seq = s.seq := rfl
@[simp] theorem State.setCrc_bus (s : State) (c : Byte) : (s.setCrc c).bus = s.bus := rfl
@[simp] theorem State.setCrc_nvm (s : State) (c : Byte) : (s.setCrc c).nvm = s.nvm := rfl
@[simp] theorem State.setCrc_frec (s : State) (c : Byte) : (s.setCrc c).frec = s.frec := rfl
@[simp] theorem State.setCrc_agenda (s : State) (c : Byte) : (s.setCrc c).agenda = s.agenda := rfl
@[simp] theorem State.setCrc_rdata (s : State) (c : Byte) : (s.setCrc c).rdata = s.rdata := rfl
@[simp] theorem State.setCrc_reads (s : State) (c : Byte) : (s.setCrc c).reads = s.reads := rfl
@[simp] theorem State.setCrc_cmd (s : State) (c : Byte) : (s.setCrc c).regs.cmd = s.regs.cmd := rfl
@[simp] theorem State.setCrc_status (s : State) (c : Byte) : (s.setCrc c).regs.status = s.regs.status := rfl
@[simp] theorem State.setCrc_result (s : State) (c : Byte) : (s.setCrc c).regs.result = s.regs.result := rfl
@[simp] theorem State.setCrc_keyType (s : State) (c : Byte) : (s.setCrc c).regs.keyType = s.regs.keyType := rfl
@[simp] theorem State.setCrc_idbuf (s : State) (c : Byte) : (s.setCrc c).regs.idbuf = s.regs.idbuf := rfl
@[simp] theorem State.setCrc_rbbuf (s : State) (c : Byte) : (s.setCrc c).regs.rbbuf = s.regs.rbbuf := rfl
@[simp] theorem State.setCrc_namebuf (s : State) (c : Byte) : (s.setCrc c).regs.namebuf = s.regs.namebuf := rfl
@[simp] theorem State.setCrc_crc (s : State) (c : Byte) : (s.setCrc c).regs.crc = c := rfl

/-! `writeNvm` -/

@[simp] theorem State.writeNvm_cfg (s : State) (cells : List Host.Cell) : (s.writeNvm cells).cfg = s.cfg := rfl
@[simp] theorem State.writeNvm_regs (s : State) (cells : List Host.Cell) : (s.writeNvm cells).regs = s.regs := rfl
@[simp] theorem State.writeNvm_seq (s : State) (cells : List Host.Cell) : (s.writeNvm cells).seq = s.seq := rfl
@[simp] theorem State.writeNvm_bus (s : State) (cells : List Host.Cell) : (s.writeNvm cells).bus = s.bus := rfl
@[simp] theorem State.writeNvm_nvm (s : State) (cells : List Host.Cell) : (s.writeNvm cells).nvm = s.nvm.storeAll cells := rfl
@[simp] theorem State.writeNvm_frec (s : State) (cells : List Host.Cell) : (s.writeNvm cells).frec = s.frec := rfl
@[simp] theorem State.writeNvm_agenda (s : State) (cells : List Host.Cell) : (s.writeNvm cells).agenda = s.agenda := rfl
@[simp] theorem State.writeNvm_rdata (s : State) (cells : List Host.Cell) : (s.writeNvm cells).rdata = s.rdata := rfl
@[simp] theorem State.writeNvm_reads (s : State) (cells : List Host.Cell) : (s.writeNvm cells).reads = s.reads := rfl

/-! `setBus` -/

@[simp] theorem State.setBus_cfg (s : State) (b : Bus) : (s.setBus b).cfg = s.cfg := rfl
@[simp] theorem State.setBus_regs (s : State) (b : Bus) : (s.setBus b).regs = s.regs := rfl
@[simp] theorem State.setBus_seq (s : State) (b : Bus) : (s.setBus b).seq = s.seq := rfl
@[simp] theorem State.setBus_bus (s : State) (b : Bus) : (s.setBus b).bus = b := rfl
@[simp] theorem State.setBus_nvm (s : State) (b : Bus) : (s.setBus b).nvm = s.nvm := rfl
@[simp] theorem State.setBus_frec (s : State) (b : Bus) : (s.setBus b).frec = s.frec := rfl
@[simp] theorem State.setBus_agenda (s : State) (b : Bus) : (s.setBus b).agenda = s.agenda := rfl
@[simp] theorem State.setBus_rdata (s : State) (b : Bus) : (s.setBus b).rdata = s.rdata := rfl
@[simp] theorem State.setBus_reads (s : State) (b : Bus) : (s.setBus b).reads = s.reads := rfl

/-! `deliver` -/

@[simp] theorem State.deliver_cfg (s : State) (v : Word) : (s.deliver v).cfg = s.cfg := rfl
@[simp] theorem State.deliver_regs (s : State) (v : Word) : (s.deliver v).regs = s.regs := rfl
@[simp] theorem State.deliver_seq (s : State) (v : Word) : (s.deliver v).seq = s.seq := rfl
@[simp] theorem State.deliver_bus (s : State) (v : Word) : (s.deliver v).bus = s.bus := rfl
@[simp] theorem State.deliver_nvm (s : State) (v : Word) : (s.deliver v).nvm = s.nvm := rfl
@[simp] theorem State.deliver_frec (s : State) (v : Word) : (s.deliver v).frec = s.frec := rfl
@[simp] theorem State.deliver_agenda (s : State) (v : Word) : (s.deliver v).agenda = s.agenda := rfl
@[simp] theorem State.deliver_rdata (s : State) (v : Word) : (s.deliver v).rdata = v := rfl
@[simp] theorem State.deliver_reads (s : State) (v : Word) : (s.deliver v).reads = s.reads := rfl

/-! `accept` -/

@[simp] theorem State.accept_cfg (s : State) (w : Word) : (s.accept w).cfg = s.cfg := rfl
@[simp] theorem State.accept_seq (s : State) (w : Word) : (s.accept w).seq = .busy w := rfl
@[simp] theorem State.accept_bus (s : State) (w : Word) : (s.accept w).bus = s.bus := rfl
@[simp] theorem State.accept_nvm (s : State) (w : Word) : (s.accept w).nvm = s.nvm := rfl
@[simp] theorem State.accept_frec (s : State) (w : Word) : (s.accept w).frec = s.frec := rfl
@[simp] theorem State.accept_agenda (s : State) (w : Word) : (s.accept w).agenda = s.agenda := rfl
@[simp] theorem State.accept_rdata (s : State) (w : Word) : (s.accept w).rdata = s.rdata := rfl
@[simp] theorem State.accept_reads (s : State) (w : Word) : (s.accept w).reads = s.reads := rfl
@[simp] theorem State.accept_cmd (s : State) (w : Word) : (s.accept w).regs.cmd = w := rfl
@[simp] theorem State.accept_status (s : State) (w : Word) : (s.accept w).regs.status = s.regs.status.accepted := rfl
@[simp] theorem State.accept_result (s : State) (w : Word) : (s.accept w).regs.result = s.regs.result := rfl
@[simp] theorem State.accept_keyType (s : State) (w : Word) : (s.accept w).regs.keyType = s.regs.keyType := rfl
@[simp] theorem State.accept_idbuf (s : State) (w : Word) : (s.accept w).regs.idbuf = s.regs.idbuf := rfl
@[simp] theorem State.accept_rbbuf (s : State) (w : Word) : (s.accept w).regs.rbbuf = s.regs.rbbuf := rfl
@[simp] theorem State.accept_namebuf (s : State) (w : Word) : (s.accept w).regs.namebuf = s.regs.namebuf := rfl
@[simp] theorem State.accept_crc (s : State) (w : Word) : (s.accept w).regs.crc = s.regs.crc := rfl

/-! `finish` -/

@[simp] theorem State.finish_cfg (s : State) (v : Half) : (s.finish v).cfg = s.cfg := rfl
@[simp] theorem State.finish_seq (s : State) (v : Half) : (s.finish v).seq = .idle := rfl
@[simp] theorem State.finish_bus (s : State) (v : Half) : (s.finish v).bus = s.bus.drive .released := rfl
@[simp] theorem State.finish_nvm (s : State) (v : Half) : (s.finish v).nvm = s.nvm := rfl
@[simp] theorem State.finish_frec (s : State) (v : Half) : (s.finish v).frec = s.frec := rfl
@[simp] theorem State.finish_agenda (s : State) (v : Half) : (s.finish v).agenda = s.agenda := rfl
@[simp] theorem State.finish_rdata (s : State) (v : Half) : (s.finish v).rdata = s.rdata := rfl
@[simp] theorem State.finish_reads (s : State) (v : Half) : (s.finish v).reads = s.reads := rfl
@[simp] theorem State.finish_cmd (s : State) (v : Half) : (s.finish v).regs.cmd = s.regs.cmd := rfl
@[simp] theorem State.finish_status (s : State) (v : Half) : (s.finish v).regs.status = s.regs.status.finished := rfl
@[simp] theorem State.finish_result (s : State) (v : Half) : (s.finish v).regs.result = v.setWidth 32 := rfl
@[simp] theorem State.finish_keyType (s : State) (v : Half) : (s.finish v).regs.keyType = s.regs.keyType := rfl
@[simp] theorem State.finish_idbuf (s : State) (v : Half) : (s.finish v).regs.idbuf = s.regs.idbuf := rfl
@[simp] theorem State.finish_rbbuf (s : State) (v : Half) : (s.finish v).regs.rbbuf = s.regs.rbbuf := rfl
@[simp] theorem State.finish_namebuf (s : State) (v : Half) : (s.finish v).regs.namebuf = s.regs.namebuf := rfl
@[simp] theorem State.finish_crc (s : State) (v : Half) : (s.finish v).regs.crc = s.regs.crc := rfl

/-! `raise` -/

@[simp] theorem State.raise_cfg (s : State) (e : CmdError) : (s.raise e).cfg = s.cfg := rfl
@[simp] theorem State.raise_seq (s : State) (e : CmdError) : (s.raise e).seq = .idle := rfl
@[simp] theorem State.raise_bus (s : State) (e : CmdError) : (s.raise e).bus = s.bus.drive .released := rfl
@[simp] theorem State.raise_nvm (s : State) (e : CmdError) : (s.raise e).nvm = s.nvm := rfl
@[simp] theorem State.raise_frec (s : State) (e : CmdError) : (s.raise e).frec = s.frec ++ faultEntries e s.runningWord := rfl
@[simp] theorem State.raise_agenda (s : State) (e : CmdError) : (s.raise e).agenda = s.agenda := rfl
@[simp] theorem State.raise_rdata (s : State) (e : CmdError) : (s.raise e).rdata = s.rdata := rfl
@[simp] theorem State.raise_reads (s : State) (e : CmdError) : (s.raise e).reads = s.reads := rfl
@[simp] theorem State.raise_cmd (s : State) (e : CmdError) : (s.raise e).regs.cmd = s.regs.cmd := rfl
@[simp] theorem State.raise_status (s : State) (e : CmdError) : (s.raise e).regs.status = s.regs.status.failed e := rfl
@[simp] theorem State.raise_result (s : State) (e : CmdError) : (s.raise e).regs.result = 0#32 := rfl
@[simp] theorem State.raise_keyType (s : State) (e : CmdError) : (s.raise e).regs.keyType = s.regs.keyType := rfl
@[simp] theorem State.raise_idbuf (s : State) (e : CmdError) : (s.raise e).regs.idbuf = s.regs.idbuf := rfl
@[simp] theorem State.raise_rbbuf (s : State) (e : CmdError) : (s.raise e).regs.rbbuf = s.regs.rbbuf := rfl
@[simp] theorem State.raise_namebuf (s : State) (e : CmdError) : (s.raise e).regs.namebuf = s.regs.namebuf := rfl
@[simp] theorem State.raise_crc (s : State) (e : CmdError) : (s.raise e).regs.crc = s.regs.crc := rfl

/-! `hostError` -/

@[simp] theorem State.hostError_cfg (s : State) (a : HostAccess) : (s.hostError a).cfg = s.cfg := rfl
@[simp] theorem State.hostError_seq (s : State) (a : HostAccess) : (s.hostError a).seq = s.seq := rfl
@[simp] theorem State.hostError_bus (s : State) (a : HostAccess) : (s.hostError a).bus = s.bus := rfl
@[simp] theorem State.hostError_nvm (s : State) (a : HostAccess) : (s.hostError a).nvm = s.nvm := rfl
@[simp] theorem State.hostError_frec (s : State) (a : HostAccess) : (s.hostError a).frec = s.frec ++ [.hostError a] := rfl
@[simp] theorem State.hostError_agenda (s : State) (a : HostAccess) : (s.hostError a).agenda = s.agenda := rfl
@[simp] theorem State.hostError_rdata (s : State) (a : HostAccess) : (s.hostError a).rdata = s.rdata := rfl
@[simp] theorem State.hostError_reads (s : State) (a : HostAccess) : (s.hostError a).reads = s.reads := rfl
@[simp] theorem State.hostError_cmd (s : State) (a : HostAccess) : (s.hostError a).regs.cmd = s.regs.cmd := rfl
@[simp] theorem State.hostError_status (s : State) (a : HostAccess) : (s.hostError a).regs.status = s.regs.status.misused := rfl
@[simp] theorem State.hostError_result (s : State) (a : HostAccess) : (s.hostError a).regs.result = s.regs.result := rfl
@[simp] theorem State.hostError_keyType (s : State) (a : HostAccess) : (s.hostError a).regs.keyType = s.regs.keyType := rfl
@[simp] theorem State.hostError_idbuf (s : State) (a : HostAccess) : (s.hostError a).regs.idbuf = s.regs.idbuf := rfl
@[simp] theorem State.hostError_rbbuf (s : State) (a : HostAccess) : (s.hostError a).regs.rbbuf = s.regs.rbbuf := rfl
@[simp] theorem State.hostError_namebuf (s : State) (a : HostAccess) : (s.hostError a).regs.namebuf = s.regs.namebuf := rfl
@[simp] theorem State.hostError_crc (s : State) (a : HostAccess) : (s.hostError a).regs.crc = s.regs.crc := rfl

/-! `refuseRead` -/

@[simp] theorem State.refuseRead_cfg (s : State) (a : HostAccess) : (s.refuseRead a).cfg = s.cfg := rfl
@[simp] theorem State.refuseRead_seq (s : State) (a : HostAccess) : (s.refuseRead a).seq = s.seq := rfl
@[simp] theorem State.refuseRead_bus (s : State) (a : HostAccess) : (s.refuseRead a).bus = s.bus := rfl
@[simp] theorem State.refuseRead_nvm (s : State) (a : HostAccess) : (s.refuseRead a).nvm = s.nvm := rfl
@[simp] theorem State.refuseRead_frec (s : State) (a : HostAccess) : (s.refuseRead a).frec = s.frec ++ [.hostError a] := rfl
@[simp] theorem State.refuseRead_agenda (s : State) (a : HostAccess) : (s.refuseRead a).agenda = s.agenda := rfl
@[simp] theorem State.refuseRead_rdata (s : State) (a : HostAccess) : (s.refuseRead a).rdata = 0#32 := rfl
@[simp] theorem State.refuseRead_reads (s : State) (a : HostAccess) : (s.refuseRead a).reads = s.reads := rfl
@[simp] theorem State.refuseRead_cmd (s : State) (a : HostAccess) : (s.refuseRead a).regs.cmd = s.regs.cmd := rfl
@[simp] theorem State.refuseRead_status (s : State) (a : HostAccess) : (s.refuseRead a).regs.status = s.regs.status.misused := rfl
@[simp] theorem State.refuseRead_result (s : State) (a : HostAccess) : (s.refuseRead a).regs.result = s.regs.result := rfl
@[simp] theorem State.refuseRead_keyType (s : State) (a : HostAccess) : (s.refuseRead a).regs.keyType = s.regs.keyType := rfl
@[simp] theorem State.refuseRead_idbuf (s : State) (a : HostAccess) : (s.refuseRead a).regs.idbuf = s.regs.idbuf := rfl
@[simp] theorem State.refuseRead_rbbuf (s : State) (a : HostAccess) : (s.refuseRead a).regs.rbbuf = s.regs.rbbuf := rfl
@[simp] theorem State.refuseRead_namebuf (s : State) (a : HostAccess) : (s.refuseRead a).regs.namebuf = s.regs.namebuf := rfl
@[simp] theorem State.refuseRead_crc (s : State) (a : HostAccess) : (s.refuseRead a).regs.crc = s.regs.crc := rfl

/-! `resetRegisters` -/

@[simp] theorem State.resetRegisters_cfg (s : State) : (s.resetRegisters).cfg = s.cfg := rfl
@[simp] theorem State.resetRegisters_regs (s : State) : (s.resetRegisters).regs = Regs.reset := rfl
@[simp] theorem State.resetRegisters_seq (s : State) : (s.resetRegisters).seq = .idle := rfl
@[simp] theorem State.resetRegisters_bus (s : State) : (s.resetRegisters).bus = s.bus.drive .released := rfl
@[simp] theorem State.resetRegisters_nvm (s : State) : (s.resetRegisters).nvm = s.nvm := rfl
@[simp] theorem State.resetRegisters_frec (s : State) : (s.resetRegisters).frec = s.frec := rfl
@[simp] theorem State.resetRegisters_agenda (s : State) : (s.resetRegisters).agenda = s.agenda := rfl
@[simp] theorem State.resetRegisters_rdata (s : State) : (s.resetRegisters).rdata = s.rdata := rfl
@[simp] theorem State.resetRegisters_reads (s : State) : (s.resetRegisters).reads = s.reads := rfl

/-! `advanceReads` -/

@[simp] theorem State.advanceReads_cfg (s : State) : (s.advanceReads).cfg = s.cfg := rfl
@[simp] theorem State.advanceReads_regs (s : State) : (s.advanceReads).regs = s.regs := rfl
@[simp] theorem State.advanceReads_seq (s : State) : (s.advanceReads).seq = s.seq := rfl
@[simp] theorem State.advanceReads_bus (s : State) : (s.advanceReads).bus = s.bus := rfl
@[simp] theorem State.advanceReads_nvm (s : State) : (s.advanceReads).nvm = s.nvm := rfl
@[simp] theorem State.advanceReads_frec (s : State) : (s.advanceReads).frec = s.frec := rfl
@[simp] theorem State.advanceReads_agenda (s : State) : (s.advanceReads).agenda = s.agenda := rfl
@[simp] theorem State.advanceReads_rdata (s : State) : (s.advanceReads).rdata = s.rdata := rfl
@[simp] theorem State.advanceReads_reads (s : State) : (s.advanceReads).reads = s.reads + 1 := rfl

/-! `Status.accepted` -/

@[simp] theorem Status.accepted_busy (t : Status) : t.accepted.busy = true := rfl
@[simp] theorem Status.accepted_done (t : Status) : t.accepted.done = false := rfl
@[simp] theorem Status.accepted_err (t : Status) : t.accepted.err = false := rfl
@[simp] theorem Status.accepted_fault (t : Status) : t.accepted.fault = t.fault := rfl
@[simp] theorem Status.accepted_hazard (t : Status) : t.accepted.hazard = t.hazard := rfl
@[simp] theorem Status.accepted_errcode (t : Status) : t.accepted.errcode = 0x00#8 := rfl

/-! `Status.finished` -/

@[simp] theorem Status.finished_busy (t : Status) : t.finished.busy = false := rfl
@[simp] theorem Status.finished_done (t : Status) : t.finished.done = true := rfl
@[simp] theorem Status.finished_err (t : Status) : t.finished.err = false := rfl
@[simp] theorem Status.finished_fault (t : Status) : t.finished.fault = t.fault := rfl
@[simp] theorem Status.finished_hazard (t : Status) : t.finished.hazard = t.hazard := rfl
@[simp] theorem Status.finished_errcode (t : Status) : t.finished.errcode = 0x00#8 := rfl

/-! `Status.misused` -/

@[simp] theorem Status.misused_busy (t : Status) : t.misused.busy = t.busy := rfl
@[simp] theorem Status.misused_done (t : Status) : t.misused.done = t.done := rfl
@[simp] theorem Status.misused_err (t : Status) : t.misused.err = t.err := rfl
@[simp] theorem Status.misused_fault (t : Status) : t.misused.fault = true := rfl
@[simp] theorem Status.misused_hazard (t : Status) : t.misused.hazard = true := rfl
@[simp] theorem Status.misused_errcode (t : Status) : t.misused.errcode = t.errcode := rfl

/-! `Status.failed` -/

@[simp] theorem Status.failed_busy (t : Status) (e : CmdError) : (t.failed e).busy = false := rfl
@[simp] theorem Status.failed_done (t : Status) (e : CmdError) : (t.failed e).done = true := rfl
@[simp] theorem Status.failed_err (t : Status) (e : CmdError) : (t.failed e).err = true := rfl
@[simp] theorem Status.failed_fault (t : Status) (e : CmdError) : (t.failed e).fault = (t.fault || e.isFault) := rfl
@[simp] theorem Status.failed_hazard (t : Status) (e : CmdError) : (t.failed e).hazard = t.hazard := rfl
@[simp] theorem Status.failed_errcode (t : Status) (e : CmdError) : (t.failed e).errcode = e.code := rfl

/-! `Bus.drive`, `Bus.record` -/

@[simp] theorem Bus.drive_line (b : Bus) (d : Drive) : (b.drive d).line = d := rfl
@[simp] theorem Bus.drive_hist (b : Bus) (d : Drive) : (b.drive d).hist = b.hist := rfl
@[simp] theorem Bus.drive_env (b : Bus) (d : Drive) : (b.drive d).env = b.env := rfl
@[simp] theorem Bus.pull_line (b : Bus) : b.pull.line = .released := rfl
@[simp] theorem Bus.pull_hist (b : Bus) : b.pull.hist = b.hist := rfl
@[simp] theorem Bus.pull_env (b : Bus) : b.pull.env = b.env := rfl
@[simp] theorem Bus.slavePresence_line (b : Bus) : b.slavePresence.line = .released := rfl
@[simp] theorem Bus.slavePresence_hist (b : Bus) : b.slavePresence.hist = b.hist ++ [.slavePresence] := rfl
@[simp] theorem Bus.slavePresence_env (b : Bus) : b.slavePresence.env = b.env := rfl
@[simp] theorem Bus.slaveSaw_line (b : Bus) (e : SlaveEvent) : (b.slaveSaw e).line = b.line := rfl
@[simp] theorem Bus.slaveSaw_hist (b : Bus) (e : SlaveEvent) : (b.slaveSaw e).hist = b.hist ++ [.slaveSaw e] := rfl
@[simp] theorem Bus.slaveSaw_env (b : Bus) (e : SlaveEvent) : (b.slaveSaw e).env = b.env := rfl
@[simp] theorem Bus.record_line (b : Bus) (e : Event) : (b.record e).line = b.line := rfl
@[simp] theorem Bus.record_hist (b : Bus) (e : Event) : (b.record e).hist = b.hist ++ [e] := rfl
@[simp] theorem Bus.record_env (b : Bus) (e : Event) : (b.record e).env = b.env := rfl

end Sys2Proof.Machine
end

