-- ==== Sys2Proof/Laws/Bus.lean ====
section
/-! SUPPORT. What each bus operation does, said once: every slot ends with the line released and appends exactly
one event. -/

namespace Sys2Proof.Machine

@[simp] theorem Bus.play_nil (b : Bus) : b.play [] = b := rfl

@[simp] theorem Bus.play_cons (b : Bus) (p : Phase) (w : List Phase) : b.play (p :: w) = (b.drive p.1).play w := rfl

@[simp] theorem Bus.play_hist (b : Bus) (w : List Phase) : (b.play w).hist = b.hist := by
  induction w generalizing b with
  | nil => rfl
  | cons p rest ih => simp [ih]

@[simp] theorem Bus.play_env (b : Bus) (w : List Phase) : (b.play w).env = b.env := by
  induction w generalizing b with
  | nil => rfl
  | cons p rest ih => simp [ih]

/-- A waveform whose last phase is `d` leaves the line at `d`. -/
theorem Bus.play_line_last (b : Bus) (w : List Phase) (p : Phase) : (b.play (w ++ [p])).line = p.1 := by
  induction w generalizing b with
  | nil => rfl
  | cons q rest ih => simpa using ih (b.drive q.1)

/-- The write slot (R106). -/
theorem Bus.writeSlot_eq (t : Timing) (b : Bus) (v : Bool) :
    b.writeSlot t v = { line := .released, hist := b.hist ++ [.writeSlot v], env := b.env } := rfl

/-- The data slot of a clone write (R124). -/
theorem Bus.programSlot_eq (t : Timing) (b : Bus) (v : Bool) :
    b.programSlot t v = { line := .released, hist := b.hist ++ [.writeSlot v], env := b.env } := rfl

/-- The reset slot (R105). -/
theorem Bus.resetSlot_eq (t : Timing) (b : Bus) :
    b.resetSlot t = (b.env.drawPresence.1,
      { line := .released, hist := b.hist ++ [.resetSlot b.env.drawPresence.1], env := b.env.drawPresence.2 }) := rfl

/-- The read slot (R107). -/
theorem Bus.readSlot_eq (t : Timing) (b : Bus) :
    b.readSlot t = (b.env.drawBit.1,
      { line := .released, hist := b.hist ++ [.readSlot b.env.drawBit.1], env := b.env.drawBit.2 }) := rfl

/-- The write-enable pulse (R117). -/
theorem Bus.wePulse_eq (t : Timing) (b : Bus) :
    b.wePulse t = { line := .released, hist := b.hist ++ [.wePulse], env := b.env } := rfl

/-- Write slots in a row append their events and draw nothing. -/
theorem Bus.writeSlots_hist_env (t : Timing) (b : Bus) (bits : List Bool) :
    (b.writeSlots t bits).hist = b.hist ++ bits.map Event.writeSlot ∧ (b.writeSlots t bits).env = b.env := by
  induction bits generalizing b with
  | nil => simp [Bus.writeSlots]
  | cons v rest ih =>
    have h := ih (b.writeSlot t v)
    simpa [Bus.writeSlots, Bus.writeSlot_eq] using h

/-- Data slots in a row append their events and draw nothing. -/
theorem Bus.programSlots_hist_env (t : Timing) (b : Bus) (bits : List Bool) :
    (b.programSlots t bits).hist = b.hist ++ bits.map Event.writeSlot ∧ (b.programSlots t bits).env = b.env := by
  induction bits generalizing b with
  | nil => simp [Bus.programSlots]
  | cons v rest ih =>
    have h := ih (b.programSlot t v)
    simpa [Bus.programSlots, Bus.programSlot_eq] using h

/-- Read slots in a row append the bits they draw. -/
theorem Bus.readSlots_hist (t : Timing) (b : Bus) (n : Nat) :
    (b.readSlots t n).2.hist = b.hist ++ (b.readSlots t n).1.map Event.readSlot := by
  induction n generalizing b with
  | zero => simp [Bus.readSlots]
  | succ n ih => simp [Bus.readSlots, ih, Bus.readSlot_eq]

/-- As many bits as slots. -/
@[simp] theorem Bus.readSlots_length (t : Timing) (b : Bus) (n : Nat) : (b.readSlots t n).1.length = n := by
  induction n generalizing b with
  | zero => rfl
  | succ n ih => simp [Bus.readSlots, ih]

/-- An action of the slave role appends its event and draws nothing. -/
theorem Bus.act_hist_env (b : Bus) (a : SlaveAction) :
    (b.act a).hist = b.hist ++ [a.event] ∧ (b.act a).env = b.env := by
  cases a with
  | bit v => cases v <;> exact ⟨rfl, rfl⟩
  | saw e => exact ⟨rfl, rfl⟩
  | presence => exact ⟨rfl, rfl⟩

/-- Actions in a row append their events and draw nothing. -/
theorem Bus.actAll_hist_env (b : Bus) (as : List SlaveAction) :
    (b.actAll as).hist = b.hist ++ as.map SlaveAction.event ∧ (b.actAll as).env = b.env := by
  induction as generalizing b with
  | nil => simp [Bus.actAll]
  | cons a rest ih => simpa [Bus.actAll, Bus.act_hist_env] using ih (b.act a)

@[simp] theorem Bus.emulated_hist (b : Bus) (as : List SlaveAction) (e : Env) :
    (b.emulated as e).hist = b.hist ++ as.map SlaveAction.event := (b.actAll_hist_env as).1

@[simp] theorem Bus.emulated_env (b : Bus) (as : List SlaveAction) (e : Env) : (b.emulated as e).env = e := rfl

end Sys2Proof.Machine
end

