-- ==== Sys2Proof/Laws/HostPort.lean ====
section
/-! SUPPORT. What a host access can do, said once. -/

namespace Sys2Proof.Machine

/-- No host access touches the parameters, the bus with its draws, the NVM or the coming inputs (R37, R38, R39). -/
theorem State.hostAccess_frame (s : State) (a : HostAccess) :
    (s.hostAccess a).cfg = s.cfg ∧ (s.hostAccess a).bus = s.bus ∧ (s.hostAccess a).nvm = s.nvm ∧
    (s.hostAccess a).agenda = s.agenda := by
  unfold State.hostAccess State.hostRead State.hostWrite
  repeat' split
  all_goals exact ⟨rfl, rfl, rfl, rfl⟩

/-- No write names a register while a command runs (R35). -/
theorem writeTarget_busy (off width : Nat) : writeTarget true off width = none := by
  unfold writeTarget
  split <;> rfl

/-- A host access leaves a running command running (R38, R39, R74). -/
theorem State.hostAccess_busy (s : State) (a : HostAccess) (h : s.regs.status.busy = true) :
    (s.hostAccess a).seq = s.seq := by
  unfold State.hostAccess State.hostRead State.hostWrite
  rw [h]
  simp only [writeTarget_busy]
  repeat' split
  all_goals rfl

end Sys2Proof.Machine
end

