-- ==== Sys2Proof/Laws/Memory.lean ====
section
/-! SUPPORT. The laws of the NVM: a read after a write, the canonical form and that every operation keeps it, and
that memories in canonical form are equal exactly when they hold the same bytes. -/

namespace Sys2Proof.Machine

/-! ## Reads after writes -/

theorem Memory.lookup_store_same (m : Memory) (a : Nat) (v : Byte) : (Memory.store m a v).lookup a = some v := by
  induction m with
  | nil => simp [Memory.store, Memory.lookup]
  | cons c rest ih =>
    unfold Memory.store
    split
    · simp [Memory.lookup]
    · split
      · simp [Memory.lookup]
      · next h1 h2 => simp [Memory.lookup, ih, Ne.symm h2]

theorem Memory.lookup_store_other (m : Memory) {a b : Nat} (v : Byte) (h : b ≠ a) :
    (Memory.store m a v).lookup b = Memory.lookup m b := by
  induction m with
  | nil => simp [Memory.store, Memory.lookup, Ne.symm h]
  | cons c rest ih =>
    unfold Memory.store
    split
    · simp [Memory.lookup, Ne.symm h]
    · split
      · next h1 h2 => subst h2; simp [Memory.lookup, Ne.symm h]
      · simp [Memory.lookup, ih]

@[simp] theorem Memory.read_store_same (m : Memory) (a : Nat) (v : Byte) : (Memory.store m a v).read a = v := by
  simp [Memory.read, Memory.lookup_store_same]

theorem Memory.read_store_other (m : Memory) {a b : Nat} (v : Byte) (h : b ≠ a) :
    (Memory.store m a v).read b = Memory.read m b := by
  simp [Memory.read, Memory.lookup_store_other m v h]

/-- A read after a write, in one equation. -/
theorem Memory.read_store (m : Memory) (a b : Nat) (v : Byte) :
    (Memory.store m a v).read b = if b = a then v else Memory.read m b := by
  by_cases h : b = a
  · subst h; simp
  · simp [Memory.read_store_other m v h, h]

@[simp] theorem Memory.storeAll_nil (m : Memory) : m.storeAll [] = m := rfl

@[simp] theorem Memory.storeAll_cons (m : Memory) (c : Host.Cell) (cs : List Host.Cell) :
    m.storeAll (c :: cs) = (m.store c.1 c.2).storeAll cs := rfl

theorem Memory.storeAll_append (m : Memory) (cs ds : List Host.Cell) :
    m.storeAll (cs ++ ds) = (m.storeAll cs).storeAll ds := by
  induction cs generalizing m with
  | nil => rfl
  | cons c rest ih => simp [ih]

/-- Byte writes leave every other byte alone. -/
theorem Memory.read_storeAll_other (m : Memory) (cs : List Host.Cell) (a : Nat) (h : ∀ c ∈ cs, c.1 ≠ a) :
    (m.storeAll cs).read a = m.read a := by
  induction cs generalizing m with
  | nil => rfl
  | cons c rest ih =>
    rw [Memory.storeAll_cons, ih _ (fun d hd => h d (List.mem_cons_of_mem _ hd)),
      Memory.read_store_other _ _ (Ne.symm (h c List.mem_cons_self))]

/-! ## The canonical form -/

@[simp] theorem Memory.wf_nil : Memory.wf [] = true := rfl

/-- The canonical form, entry by entry. -/
theorem Memory.wf_cons (c : Host.Cell) (m : Memory) :
    Memory.wf (c :: m) = true ↔ (∀ d ∈ m, c.1 < d.1) ∧ Memory.wf m = true := by
  induction m generalizing c with
  | nil => simp [Memory.wf]
  | cons d rest ih =>
    simp only [Memory.wf, Bool.and_eq_true, decide_eq_true_eq]
    constructor
    · rintro ⟨hcd, hrest⟩
      refine ⟨fun e he => ?_, hrest⟩
      rcases List.mem_cons.1 he with rfl | he
      · exact hcd
      · exact lt_trans hcd (((ih d).1 hrest).1 e he)
    · rintro ⟨hall, hrest⟩
      exact ⟨hall d List.mem_cons_self, hrest⟩

theorem Memory.mem_store {m : Memory} {a : Nat} {v : Byte} {c : Host.Cell} (h : c ∈ Memory.store m a v) :
    c = (a, v) ∨ c ∈ m := by
  induction m with
  | nil => simpa [Memory.store] using h
  | cons d rest ih =>
    unfold Memory.store at h
    split at h
    · simpa using h
    · split at h
      · rcases List.mem_cons.1 h with h | h
        · exact .inl h
        · exact .inr (List.mem_cons_of_mem _ h)
      · rcases List.mem_cons.1 h with h | h
        · exact .inr (h ▸ List.mem_cons_self)
        · exact (ih h).imp_right (List.mem_cons_of_mem _)

theorem Memory.store_wf {m : Memory} (h : m.wf = true) (a : Nat) (v : Byte) : (Memory.store m a v).wf = true := by
  induction m with
  | nil => rfl
  | cons c rest ih =>
    obtain ⟨hlt, hrest⟩ := (Memory.wf_cons c rest).1 h
    unfold Memory.store
    split
    · next hac =>
      refine (Memory.wf_cons _ _).2 ⟨fun d hd => ?_, h⟩
      rcases List.mem_cons.1 hd with rfl | hd
      · exact hac
      · exact lt_trans hac (hlt d hd)
    · split
      · next _ hac => exact (Memory.wf_cons _ _).2 ⟨fun d hd => hac ▸ hlt d hd, hrest⟩
      · next h1 h2 =>
        refine (Memory.wf_cons _ _).2 ⟨fun d hd => ?_, ih hrest⟩
        rcases Memory.mem_store hd with rfl | hd
        · exact lt_of_le_of_ne (not_lt.1 h1) (Ne.symm h2)
        · exact hlt d hd

theorem Memory.storeAll_wf {m : Memory} (h : m.wf = true) (cs : List Host.Cell) : (m.storeAll cs).wf = true := by
  induction cs generalizing m with
  | nil => exact h
  | cons c rest ih => exact ih (Memory.store_wf h _ _)

theorem Memory.mem_storeAll {m : Memory} {cs : List Host.Cell} {c : Host.Cell} (h : c ∈ m.storeAll cs) :
    c ∈ cs ∨ c ∈ m := by
  induction cs generalizing m with
  | nil => exact .inr h
  | cons d rest ih =>
    rcases ih h with h | h
    · exact .inl (List.mem_cons_of_mem _ h)
    · rcases Memory.mem_store h with h | h
      · exact .inl (h ▸ List.mem_cons_self)
      · exact .inr h

/-- The memory after reset is in canonical form. -/
theorem State.reset_nvm_wf : State.reset.nvm.wf = true := rfl

theorem Memory.lookup_of_forall_lt {m : Memory} {a : Nat} (h : ∀ d ∈ m, a < d.1) : m.lookup a = none := by
  induction m with
  | nil => rfl
  | cons c rest ih =>
    simp only [Memory.lookup]
    rw [if_neg (ne_of_gt (h c List.mem_cons_self)), ih fun d hd => h d (List.mem_cons_of_mem _ hd)]

/-- Two memories in canonical form that hold the same bytes are equal. -/
theorem Memory.ext_of_lookup {m n : Memory} (hm : m.wf = true) (hn : n.wf = true)
    (h : ∀ a, m.lookup a = n.lookup a) : m = n := by
  induction m generalizing n with
  | nil =>
    cases n with
    | nil => rfl
    | cons d rest => simpa [Memory.lookup] using h d.1
  | cons c rest ih =>
    cases n with
    | nil => simpa [Memory.lookup] using h c.1
    | cons d rest' =>
      obtain ⟨hc, hm'⟩ := (Memory.wf_cons c rest).1 hm
      obtain ⟨hd, hn'⟩ := (Memory.wf_cons d rest').1 hn
      have hkey : c.1 = d.1 := by
        rcases lt_trichotomy c.1 d.1 with hlt | heq | hlt
        · have := h c.1
          rw [Memory.lookup_of_forall_lt (m := d :: rest')] at this
          · simp [Memory.lookup] at this
          · intro e he
            rcases List.mem_cons.1 he with rfl | he
            · exact hlt
            · exact lt_trans hlt (hd e he)
        · exact heq
        · have := h d.1
          rw [Memory.lookup_of_forall_lt (m := c :: rest)] at this
          · simp [Memory.lookup] at this
          · intro e he
            rcases List.mem_cons.1 he with rfl | he
            · exact hlt
            · exact lt_trans hlt (hc e he)
      have hval : c.2 = d.2 := by simpa [Memory.lookup, hkey] using h c.1
      have hcd : c = d := Prod.ext hkey hval
      subst hcd
      congr 1
      refine ih hm' hn' fun a => ?_
      by_cases ha : a = c.1
      · subst ha
        rw [Memory.lookup_of_forall_lt hc, Memory.lookup_of_forall_lt hd]
      · simpa [Memory.lookup, Ne.symm ha] using h a

/-! ## Multi-byte writes -/

theorem mem_cellsFrom {a : Nat} {bytes : List Byte} {c : Host.Cell} (h : c ∈ cellsFrom a bytes) :
    a ≤ c.1 ∧ c.1 < a + bytes.length := by
  induction bytes generalizing a with
  | nil => simp [cellsFrom] at h
  | cons b rest ih =>
    rcases List.mem_cons.1 h with rfl | h
    · exact ⟨Nat.le_refl _, by simp⟩
    · have := ih h
      simp only [List.length_cons]
      omega

@[simp] theorem leBytes_length (n v : Nat) : (leBytes n v).length = n := by
  induction n generalizing v with
  | zero => rfl
  | succ n ih => simp [leBytes, ih]

/-- The addresses `MemWrite(a, n, v)` writes. -/
theorem mem_memWrite {a n v : Nat} {c : Host.Cell} (h : c ∈ memWrite a n v) : a ≤ c.1 ∧ c.1 < a + n := by
  simpa using mem_cellsFrom h

end Sys2Proof.Machine
end

