-- ==== Sys2Proof/Laws/KeyStore.lean ====
section
/-! SUPPORT. What the walks and the completions of the key store can answer, said once. -/

namespace Sys2Proof.Machine

/-- `carryOut` either writes a plan and finishes, or raises with nothing written. -/
theorem State.carryOut_ok (s : State) (plan : StorePlan) :
    s.carryOut (.ok plan) = (s.writeNvm plan.writes).finish (BitVec.ofNat 16 plan.result) := rfl

theorem State.carryOut_error (s : State) (e : CmdError) : s.carryOut (.error e) = s.raise e := rfl

/-- The walk of R81 answers a live slot inside the table, at or above where it starts. -/
theorem resolveFrom_ok {m : Memory} {nslots i n p k q : Nat} (h : resolveFrom m nslots i n p k = .ok q) :
    p ≤ q ∧ q < nslots ∧ isTomb (markerAt m q) = false := by
  induction n generalizing p k with
  | zero => simp [resolveFrom] at h
  | succ n ih =>
    unfold resolveFrom at h
    split at h
    · cases h
    · split at h
      · split at h
        · cases h
        · obtain ⟨h1, h2⟩ := ih h
          exact ⟨by omega, h2⟩
      · split at h
        · cases h
          exact ⟨Nat.le_refl _, by omega, by simp_all⟩
        · obtain ⟨h1, h2⟩ := ih h
          exact ⟨by omega, h2⟩

/-- `resolve` answers a live slot inside the table (R81, R82). -/
theorem resolve_ok {m : Memory} {nslots i p : Nat} (h : resolve m nslots i = .ok p) :
    p < nslots ∧ isTomb (markerAt m p) = false := (resolveFrom_ok h).2

/-- `logical_end` lies inside the table (R83, R85). -/
theorem logicalEnd_ok {m : Memory} {nslots le : Nat} (h : logicalEnd m nslots = .ok le) : le ≤ nslots := by
  unfold logicalEnd at h
  split at h
  · cases h; exact Nat.zero_le _
  · split at h
    · next p hp => cases h; exact (resolve_ok hp).1
    · cases h

/-- `first_tomb` answers a tombstoned slot below the logical end, with live slots below it (R85). -/
theorem firstTombFrom_some {m : Memory} {n p h : Nat} (hh : firstTombFrom m n p = some h) :
    p ≤ h ∧ h < p + n ∧ isTomb (markerAt m h) = true ∧ ∀ q, p ≤ q → q < h → isTomb (markerAt m q) = false := by
  induction n generalizing p with
  | zero => simp [firstTombFrom] at hh
  | succ n ih =>
    unfold firstTombFrom at hh
    split at hh
    · next ht => cases hh; exact ⟨Nat.le_refl _, by omega, ht, fun q h1 h2 => by omega⟩
    · next ht =>
      obtain ⟨h1, h2, h3, h4⟩ := ih hh
      refine ⟨by omega, by omega, h3, fun q hq hqh => ?_⟩
      rcases Nat.eq_or_lt_of_le hq with rfl | hq
      · simpa using ht
      · exact h4 q hq hqh

/-- A slot is chosen below the logical end, or its error is the walk's (R94). -/
theorem chooseSlot_of_logicalEnd (c : Config) (m : Memory) (le : Nat) (h : logicalEnd m c.nslots = .ok le) :
    chooseSlot c m = chooseBelow c m le := by simp [chooseSlot, h]

end Sys2Proof.Machine
end

