-- ==== Sys2Proof/Laws/PerInstr.lean ====
section
/-! SUPPORT. A law of every command as syntax: its word carries the opcode of its row of the opcode map, and RSV
(bits 23:16) is 0 when the operand fits its form (30_encoding.md rules R60, R61, R63). -/

namespace Sys2Proof.Laws.OpcodeWord

/-- The opcode R63 gives each command. -/
def opcode : Instr → Byte
  | .nop => 0x00#8
  | .owReset => 0x01#8
  | .owWriteBit _ => 0x02#8
  | .owReadBit => 0x03#8
  | .owWriteByte _ => 0x04#8
  | .owReadByte => 0x05#8
  | .owWriteEnable => 0x06#8
  | .owReadId => 0x10#8
  | .owReadRaw => 0x11#8
  | .owCloneWrite => 0x12#8
  | .owEmulatePoll => 0x13#8
  | .crcClear => 0x20#8
  | .crcUpdate _ => 0x21#8
  | .crcSeal => 0x22#8
  | .ksCount => 0x30#8
  | .ksGet _ => 0x31#8
  | .ksInsert => 0x32#8
  | .ksDelete _ => 0x33#8
  | .ksSetCount _ => 0x34#8
  | .ksResolve _ => 0x35#8

/-- A well-formed command's word has its opcode in bits 31:24 and 0 in bits 23:16. -/
def Statement (i : Instr) : Prop :=
  i.wellFormed = true → (encode i).extractLsb' 24 8 = opcode i ∧ (encode i).extractLsb' 16 8 = 0#8

/-- An operand below 2^16 or'ed under an opcode leaves bits 31:16 as they are. -/
theorem high_of_or {c : Word} {n : Nat} (h : n ≤ 0xFFFF) (k : Nat) (hk : 16 ≤ k) :
    (c ||| BitVec.ofNat 32 n).extractLsb' k 8 = c.extractLsb' k 8 := by
  apply BitVec.eq_of_getLsbD_eq
  intro j hj
  have hn : n.testBit (k + j) = false :=
    Nat.testBit_lt_two_pow (lt_of_lt_of_le (by omega : n < 2 ^ 16) (Nat.pow_le_pow_right (by omega) (by omega)))
  simp [BitVec.getLsbD_extractLsb', BitVec.getLsbD_ofNat, hn]

theorem nop : Statement .nop := fun _ => by decide
theorem owReset : Statement .owReset := fun _ => by decide
theorem owWriteBit (b : Nat) : Statement (.owWriteBit b) := fun h => by
  have hb : b ≤ 0xFFFF := Nat.le_trans (of_decide_eq_true h) (Nat.le_of_ble_eq_true rfl)
  simp only [encode, high_of_or hb 24 (by decide), high_of_or hb 16 (by decide)]
  exact ⟨rfl, rfl⟩
theorem owReadBit : Statement .owReadBit := fun _ => by decide
theorem owWriteByte (v : Nat) : Statement (.owWriteByte v) := fun h => by
  have hv : v ≤ 0xFFFF := Nat.le_trans (of_decide_eq_true h) (Nat.le_of_ble_eq_true rfl)
  simp only [encode, high_of_or hv 24 (by decide), high_of_or hv 16 (by decide)]
  exact ⟨rfl, rfl⟩
theorem owReadByte : Statement .owReadByte := fun _ => by decide
theorem owWriteEnable : Statement .owWriteEnable := fun _ => by decide
theorem owReadId : Statement .owReadId := fun _ => by decide
theorem owReadRaw : Statement .owReadRaw := fun _ => by decide
theorem owCloneWrite : Statement .owCloneWrite := fun _ => by decide
theorem owEmulatePoll : Statement .owEmulatePoll := fun _ => by decide
theorem crcClear : Statement .crcClear := fun _ => by decide
theorem crcUpdate (v : Nat) : Statement (.crcUpdate v) := fun h => by
  have hv : v ≤ 0xFFFF := Nat.le_trans (of_decide_eq_true h) (Nat.le_of_ble_eq_true rfl)
  simp only [encode, high_of_or hv 24 (by decide), high_of_or hv 16 (by decide)]
  exact ⟨rfl, rfl⟩
theorem crcSeal : Statement .crcSeal := fun _ => by decide
theorem ksCount : Statement .ksCount := fun _ => by decide
theorem ksGet (n : Nat) : Statement (.ksGet n) := fun h => by
  have hn : n ≤ 0xFFFF := of_decide_eq_true h
  simp only [encode, high_of_or hn 24 (by decide), high_of_or hn 16 (by decide)]
  exact ⟨rfl, rfl⟩
theorem ksInsert : Statement .ksInsert := fun _ => by decide
theorem ksDelete (n : Nat) : Statement (.ksDelete n) := fun h => by
  have hn : n ≤ 0xFFFF := of_decide_eq_true h
  simp only [encode, high_of_or hn 24 (by decide), high_of_or hn 16 (by decide)]
  exact ⟨rfl, rfl⟩
theorem ksSetCount (n : Nat) : Statement (.ksSetCount n) := fun h => by
  have hn : n ≤ 0xFFFF := of_decide_eq_true h
  simp only [encode, high_of_or hn 24 (by decide), high_of_or hn 16 (by decide)]
  exact ⟨rfl, rfl⟩
theorem ksResolve (n : Nat) : Statement (.ksResolve n) := fun h => by
  have hn : n ≤ 0xFFFF := of_decide_eq_true h
  simp only [encode, high_of_or hn 24 (by decide), high_of_or hn 16 (by decide)]
  exact ⟨rfl, rfl⟩

end Sys2Proof.Laws.OpcodeWord
end

