-- ==== Sys2Proof/Laws/Step.lean ====
section
/-! SUPPORT. What one step can be, said once. -/

namespace Sys2Proof.Machine

/-- A step is the controller's turn, a host access, or a reset (R152). -/
theorem step_cases (s : State) :
    (s.agenda = [] ∧ step s = s.controllerTurn) ∨
    (∃ rest, s.agenda = .controller :: rest ∧ step s = State.controllerTurn { s with agenda := rest }) ∨
    (∃ a rest, s.agenda = .host a :: rest ∧ step s = .next (State.hostAccess { s with agenda := rest } a)) ∨
    (∃ t rest, s.agenda = .reset t :: rest ∧ step s = .next (State.resetEvent { s with agenda := rest } t)) := by
  unfold step State.advance
  split
  · next h => exact .inl ⟨h, rfl⟩
  · next rest h => exact .inr (.inl ⟨rest, h, rfl⟩)
  · next a rest h => exact .inr (.inr (.inl ⟨a, rest, h, rfl⟩))
  · next t rest h => exact .inr (.inr (.inr ⟨t, rest, h, rfl⟩))

end Sys2Proof.Machine
end

