-- ==== Sys2Proof/Tests/Slice0.lean ====
section
/-! SUPPORT. Tests of the model against the spec's own vectors (95_test_vectors.md) and encodings (30_encoding.md),
and for each statement with hypotheses a concrete state that meets them. -/

namespace Sys2Proof.Tests

open Sys2Proof.Machine

/-! ## WellFormed refuses what does not fit (R69) -/

theorem test_bit_operand_two_refused : (Instr.owWriteBit 2).wellFormed = false := by decide
theorem test_byte_operand_256_refused : (Instr.owWriteByte 256).wellFormed = false := by decide
theorem test_crc_operand_256_refused : (Instr.crcUpdate 256).wellFormed = false := by decide
theorem test_half_operand_65536_refused :
    (Instr.ksGet 65536).wellFormed = false ∧ (Instr.ksDelete 65536).wellFormed = false ∧
    (Instr.ksSetCount 65536).wellFormed = false ∧ (Instr.ksResolve 65536).wellFormed = false := by decide
theorem test_largest_operands_fit :
    (Instr.owWriteBit 1).wellFormed = true ∧ (Instr.owWriteByte 255).wellFormed = true ∧
    (Instr.ksGet 65535).wellFormed = true := by decide

/-! ## Decoding: one word per row, written out as OPC, RSV, IMM (R60, R63) -/

theorem test_decode_nop : decode 0b00000000_00000000_0000000000000000#32 = .ok .nop := rfl
theorem test_decode_owReset : decode 0b00000001_00000000_0000000000000000#32 = .ok .owReset := rfl
theorem test_decode_owWriteBit : decode 0b00000010_00000000_0000000000000001#32 = .ok (.owWriteBit 1) := rfl
theorem test_decode_owReadBit : decode 0b00000011_00000000_0000000000000000#32 = .ok .owReadBit := rfl
theorem test_decode_owWriteByte : decode 0b00000100_00000000_0000000000110011#32 = .ok (.owWriteByte 0x33) := rfl
theorem test_decode_owReadByte : decode 0b00000101_00000000_0000000000000000#32 = .ok .owReadByte := rfl
theorem test_decode_owWriteEnable : decode 0b00000110_00000000_0000000000000000#32 = .ok .owWriteEnable := rfl
theorem test_decode_owReadId : decode 0b00010000_00000000_0000000000000000#32 = .ok .owReadId := rfl
theorem test_decode_owReadRaw : decode 0b00010001_00000000_0000000000000000#32 = .ok .owReadRaw := rfl
theorem test_decode_owCloneWrite : decode 0b00010010_00000000_0000000000000000#32 = .ok .owCloneWrite := rfl
theorem test_decode_owEmulatePoll : decode 0b00010011_00000000_0000000000000000#32 = .ok .owEmulatePoll := rfl
theorem test_decode_crcClear : decode 0b00100000_00000000_0000000000000000#32 = .ok .crcClear := rfl
theorem test_decode_crcUpdate : decode 0b00100001_00000000_0000000000011100#32 = .ok (.crcUpdate 0x1C) := rfl
theorem test_decode_crcSeal : decode 0b00100010_00000000_0000000000000000#32 = .ok .crcSeal := rfl
theorem test_decode_ksCount : decode 0b00110000_00000000_0000000000000000#32 = .ok .ksCount := rfl
theorem test_decode_ksGet : decode 0b00110001_00000000_1111111111111111#32 = .ok (.ksGet 65535) := rfl
theorem test_decode_ksInsert : decode 0b00110010_00000000_0000000000000000#32 = .ok .ksInsert := rfl
theorem test_decode_ksDelete : decode 0b00110011_00000000_0000000000000001#32 = .ok (.ksDelete 1) := rfl
theorem test_decode_ksSetCount : decode 0b00110100_00000000_0001001000110100#32 = .ok (.ksSetCount 0x1234) := rfl
theorem test_decode_ksResolve : decode 0b00110101_00000000_1111111111111111#32 = .ok (.ksResolve 65535) := rfl

/-- L2.1: reserved opcodes and set reserved bits. -/
theorem test_decode_illegal :
    decode 0x07000000#32 = .error .reservedOpcode ∧ decode 0x0F000000#32 = .error .reservedOpcode ∧
    decode 0x14000000#32 = .error .reservedOpcode ∧ decode 0x36000000#32 = .error .reservedOpcode ∧
    decode 0xFF000000#32 = .error .reservedOpcode ∧ decode 0x00000001#32 = .error .reservedBits ∧
    decode 0x00010000#32 = .error .reservedBits ∧ decode 0x02000002#32 = .error .reservedBits ∧
    decode 0x04000100#32 = .error .reservedBits ∧ decode 0x21000100#32 = .error .reservedBits ∧
    decode 0x31010000#32 = .error .reservedBits := ⟨rfl, rfl, rfl, rfl, rfl, rfl, rfl, rfl, rfl, rfl, rfl⟩

/-- R36: the bytes of a word, lowest address first. -/
theorem test_table_word : decodeTableWord 32 0x31000002 = some (.ksGet 2) ∧
    decodeBytes [0x02#8, 0x00#8, 0x00#8, 0x31#8] = .ok (.ksGet 2, []) ∧
    decodeBytes [0x02#8, 0x00#8, 0x00#8] = .error .narrow := ⟨by decide, rfl, rfl⟩

/-! ## Test states: the parameters of 95_test_vectors.md -/

/-- The default parameters with `NSLOTS` = 8 and `NVM_SIZE` = 330. -/
def tCfg : Config where
  base := 0x1000
  nslots := 8
  nvmSize := 330
  familyCode := 0x01#8
  insertRunEnd := .head
  weForm := .bytePlusPulse
  writeDataInvert := false
  emuSlotTimeout := none
  timing := ⟨480, 70, 480, 6, 60, 10, 6, 15, 60, 5, 5, 5⟩

/-- Reset with those parameters. -/
def tState : State := { State.reset with cfg := tCfg }

/-- The identity 01 11 22 33 44 55 66 75 of the vectors. -/
def tBytes : List Byte := [0x01#8, 0x11#8, 0x22#8, 0x33#8, 0x44#8, 0x55#8, 0x66#8, 0x75#8]

/-- That identity with a CRC byte of 0. -/
def tStaleBytes : List Byte := [0x01#8, 0x11#8, 0x22#8, 0x33#8, 0x44#8, 0x55#8, 0x66#8, 0x00#8]

/-- A table with these markers and this count, and nothing else written. -/
def tTable (count : Nat) (markers : List Byte) : Memory :=
  Memory.storeAll [] (memWrite 0 2 count ++ (List.range markers.length).map fun p => (slotAddr p, markers.getD p 0#8))

/-- A store with that table, and a record in the operand registers: type 1, name "A". -/
def tStore (count : Nat) (markers : List Byte) : State :=
  { tState with
    nvm := tTable count markers
    regs := { Regs.reset with
      keyType := 0x01#8, namebuf := nameOf [0x41#8]
      idbuf := identityOf [0x01#8, 0x41#8, 0#8, 0#8, 0#8, 0#8, 0#8, 0x99#8] } }

/-- An environment that announces presence answers and bytes. -/
def tBus (presence : List Bool) (bytes : List Byte) : State :=
  { tState with
    regs := { Regs.reset with idbuf := identityOf tBytes }
    bus := { tState.bus with
      env := { presence := presence, bits := bitsOfBytes bytes, samples := [], master := [], drawn := 0 } } }

/-- An environment with an external master. -/
def tMaster (samples : List LineSample) (events : List MasterEvent) : State :=
  { tState with
    regs := { Regs.reset with idbuf := identityOf tBytes }
    bus := { tState.bus with env := { presence := [], bits := [], samples := samples, master := events, drawn := 0 } } }

/-- The slots of a command byte. -/
def tSlots (v : Byte) : List MasterEvent := (bitsOfByte v).map slotFor

/-- The state after the command is accepted and run. -/
def tAfter (i : Instr) (s : State) : State :=
  match exec i (s.accept (encode i)) with
  | .next t => t
  | .fault _ => s
  | .refused _ => s

/-- The state after the command is run where it stands. -/
def tAfterExec (i : Instr) (s : State) : State :=
  match exec i s with
  | .next t => t
  | .fault _ => s
  | .refused _ => s

/-- The plan of a command that passes its checks. -/
def tPlan (r : Except CmdError StorePlan) : StorePlan :=
  match r with
  | .ok plan => plan
  | .error _ => ⟨[], 0⟩

/-- `RESULT` and `STATUS` after the command. -/
def tAnswer (i : Instr) (s : State) : Word × Word :=
  ((tAfter i s).regs.result, (tAfter i s).regs.status.word)

/-- The state after one step. -/
def tStep (s : State) : State :=
  match step s with
  | .next t => t
  | .fault _ => s
  | .refused _ => s

/-! ## System, CRC-8 (L2.1, L2.5) -/

/-- R76's example: `RESULT` = 5 before. -/
theorem test_nop : tAnswer .nop { tState with regs := { Regs.reset with result := 5#32 } } = (0#32, 0x00000002#32) := by
  decide

/-- L2.5 single steps. -/
theorem test_crc_step : crc8Step 0x00#8 0x01#8 = 0x5E#8 ∧ crc8Step 0x00#8 0x80#8 = 0x8C#8 ∧
    crc8Step 0x00#8 0xFF#8 = 0x35#8 ∧ crc8Step 0x5E#8 0x00#8 = 0xC4#8 ∧ crc8Step 0x12#8 0x34#8 = 0xFE#8 := by decide

set_option maxRecDepth 4000 in
/-- L2.5. -/
theorem test_crc_example : crc8 [0x02#8, 0x1C#8, 0xB8#8, 0x01#8, 0x00#8, 0x00#8, 0x00#8] = 0xA2#8 := by decide

theorem test_crcClear : (tAfter .crcClear { tState with regs := { Regs.reset with crc := 0xA2#8 } }).regs.crc = 0x00#8 := by
  decide

theorem test_crcUpdate : tAnswer (.crcUpdate 0x02) tState = (0xBC#32, 0x00000002#32) ∧
    (tAfter (.crcUpdate 0x00) { tState with regs := { Regs.reset with crc := 0x5E#8 } }).regs.crc = 0xC4#8 := by decide

set_option maxRecDepth 4000 in
theorem test_crcSeal : (tAfter .crcSeal { tState with regs := { Regs.reset with
    idbuf := identityOf [0x02#8, 0x1C#8, 0xB8#8, 0x01#8, 0#8, 0#8, 0#8, 0xFF#8] } }).regs.idbuf[7] = 0xA2#8 := by decide

/-! ## Bus primitives (L2.3) -/

theorem test_owReset : tAnswer .owReset (tBus [true] []) = (1#32, 0x00000002#32) ∧
    tAnswer .owReset (tBus [false] []) = (0#32, 0x00000002#32) := by decide

theorem test_owWriteBit : (tAfter (.owWriteBit 1) tState).bus.hist = [.writeSlot true] := by decide

theorem test_owReadBit : (tAnswer .owReadBit (tBus [] [0x01#8])).1 = 1#32 ∧
    (tAnswer .owReadBit (tBus [] [0xFE#8])).1 = 0#32 := by decide

set_option maxRecDepth 4000 in
theorem test_owWriteByte : (tAfter (.owWriteByte 0xCC) tState).bus.hist =
    [.writeSlot false, .writeSlot false, .writeSlot true, .writeSlot true,
     .writeSlot false, .writeSlot false, .writeSlot true, .writeSlot true] := by decide

theorem test_owReadByte : (tAnswer .owReadByte (tBus [] [0x75#8])).1 = 0x75#32 ∧
    (tAfter .owReadByte (tBus [] [0x02#8])).bus.hist.take 2 = [.readSlot false, .readSlot true] := by decide

set_option maxRecDepth 4000 in
theorem test_owWriteEnable : (tAfter .owWriteEnable tState).bus.hist =
    [.writeSlot true, .writeSlot false, .writeSlot false, .writeSlot false,
     .writeSlot true, .writeSlot false, .writeSlot true, .writeSlot true, .wePulse] := by decide

theorem test_owWriteEnable_pulseOnly :
    (tAfter .owWriteEnable { tState with cfg := { tCfg with weForm := .pulseOnly } }).bus.hist = [.wePulse] := by decide

/-! ## Bus protocols (L1.2, L1.3, L2.4) -/

set_option maxRecDepth 4000 in
theorem test_owReadId : tAnswer .owReadId (tBus [true] tBytes) = (0#32, 0x00000002#32) ∧
    (tAfter .owReadId (tBus [true] tBytes)).bus.hist.length = 73 := by decide

set_option maxRecDepth 4000 in
/-- L1.2: family 02 with a correct CRC. -/
theorem test_owReadId_wrongFamily :
    tAnswer .owReadId (tBus [true] [0x02#8, 0x1C#8, 0xB8#8, 0x01#8, 0#8, 0#8, 0#8, 0xA2#8]) = (0#32, 0x00000206#32) := by
  decide

set_option maxRecDepth 4000 in
theorem test_owReadRaw : (tAfter .owReadRaw (tBus [true] [0x02#8, 0x1C#8, 0xB8#8, 0x01#8, 0#8, 0#8, 0#8, 0xA2#8])).regs.rbbuf =
    identityOf [0x02#8, 0x1C#8, 0xB8#8, 0x01#8, 0#8, 0#8, 0#8, 0xA2#8] ∧
    tAnswer .owReadRaw (tBus [false] []) = (0#32, 0x00000106#32) := by decide

set_option maxRecDepth 10000 in
theorem test_owCloneWrite : tAnswer .owCloneWrite (tBus [true, true] tBytes) = (0#32, 0x00000002#32) ∧
    (tAfter .owCloneWrite (tBus [true, true] tBytes)).bus.hist.length = 172 := by decide

set_option maxRecDepth 10000 in
/-- L1.3: the read-back differs in one byte. -/
theorem test_owCloneWrite_mismatch :
    tAnswer .owCloneWrite (tBus [true, true] [0x01#8, 0x11#8, 0x22#8, 0x33#8, 0x44#8, 0x55#8, 0x67#8, 0x75#8])
      = (0#32, 0x00000406#32) := by decide

/-- L2.4: another command byte. -/
theorem test_owEmulatePoll_otherCommand :
    tAnswer .owEmulatePoll (tMaster [.reset] (tSlots 0xCC#8)) = (0xCC01#32, 0x00000002#32) := by decide

set_option maxRecDepth 10000 in
/-- L2.4: three slots, a reset, 0x33, 64 slots. -/
theorem test_owEmulatePoll_identitySent :
    (tAnswer .owEmulatePoll
      (tMaster [.reset] ([.short, .long, .short, .reset] ++ tSlots 0x33#8 ++ List.replicate 64 .long))).1 = 0x0002#32 := by
  decide

/-! ## Key store (L1.1, L2.2) -/

theorem test_slotAddr : slotAddr 0 = 2 ∧ slotAddr 1 = 43 ∧ slotAddr 2 = 84 ∧ slotAddr 126 = 5168 := by decide

theorem test_ksCount : (tAnswer .ksCount (tStore 0x1234 [])).1 = 0x1234#32 := by decide

theorem test_ksSetCount : (tAfter (.ksSetCount 5) (tStore 0 [])).nvm.read 0 = 5#8 ∧
    (tAfter (.ksSetCount 5) (tStore 0 [])).nvm.read 1 = 0#8 := by decide

/-- R104's example, and the leading run of R81. -/
theorem test_ksResolve : (tAnswer (.ksResolve 1) (tStore 2 [0x01#8, 0x81#8, 0x01#8])).1 = 2#32 ∧
    (tAnswer (.ksResolve 0) (tStore 2 [0x81#8, 0x01#8, 0x01#8])).1 = 1#32 := by decide

/-- KS8: a run that leaves the table, and a run length of 0. -/
theorem test_ksGet_corrupt :
    tAnswer (.ksGet 1) (tStore 2 [0x01#8, 0x8A#8, 0x01#8]) = (0#32, 0x0000120E#32) ∧
    (tAfter (.ksGet 1) (tStore 2 [0x01#8, 0x8A#8, 0x01#8])).frec = [.command (.tableOverrun 11) 0x31000001#32] ∧
    tAnswer (.ksGet 1) (tStore 2 [0x01#8, 0x80#8, 0x01#8]) = (0#32, 0x0000160E#32) := by decide

set_option maxRecDepth 4000 in
/-- KS2: the first insert, read back. -/
theorem test_ksGet_roundTrip :
    let t := tAfter (.ksGet 0) { tAfter .ksInsert (tStore 0 []) with regs := Regs.reset }
    t.regs.keyType = 0x01#8 ∧ t.regs.namebuf = nameOf [0x41#8] ∧
    t.regs.idbuf = identityOf [0x01#8, 0x41#8, 0#8, 0#8, 0#8, 0#8, 0#8, 0x99#8] := by decide

/-- KS2: the exact byte writes of the first insert. -/
theorem test_ksInsert_writes :
    (match insertPlan tCfg (tStore 0 []).regs (tStore 0 []).nvm with
      | .ok plan => plan.writes
      | .error _ => []) =
    [(0, 0x01#8), (1, 0x00#8), (2, 0x01#8), (3, 0x41#8), (4, 0x00#8), (35, 0x01#8), (36, 0x41#8), (37, 0#8), (38, 0#8),
     (39, 0#8), (40, 0#8), (41, 0#8), (42, 0x99#8)] := by decide

/-- KS4 step 4T: a run of three under `Tail`. -/
theorem test_ksInsert_tail :
    let t := tAfter .ksInsert
      { tStore 3 [0x01#8, 0x83#8, 0x81#8, 0x83#8, 0x01#8, 0x01#8] with cfg := { tCfg with insertRunEnd := .tail } }
    t.regs.result = 1#32 ∧
    [0, 1, 2, 3, 4, 5].map (markerAt t.nvm) = [0x01#8, 0x82#8, 0x82#8, 0x01#8, 0x01#8, 0x01#8] := by decide

/-- KS4 step 3: the three-way merge. -/
theorem test_ksDelete_merge :
    let t := tAfter (.ksDelete 1) (tStore 4 [0x01#8, 0x81#8, 0x01#8, 0x81#8, 0x01#8, 0x01#8])
    t.regs.result = 2#32 ∧ liveCount t.nvm = 3 ∧
    [0, 1, 2, 3, 4, 5].map (markerAt t.nvm) = [0x01#8, 0x83#8, 0x81#8, 0x83#8, 0x01#8, 0x01#8] := by decide

/-- KS8: a wrong tail marker. -/
theorem test_ksDelete_corrupt :
    (tAfter (.ksDelete 1) (tStore 2 [0x01#8, 0x82#8, 0x85#8, 0x01#8])).frec
      = [.command (.corruptMarker 2) 0x33000001#32] := by decide

/-! ## Host accesses (L2.1) -/

/-- A state whose next input is this access, `STATUS` = 0x00000002. -/
def tAccess (a : HostAccess) : State :=
  { tState with
    agenda := [.host a]
    regs := { Regs.reset with status := { Status.reset with done := true }, idbuf := identityOf tBytes } }

theorem test_write_idbuf :
    (tStep (tAccess (.write 0x1010 4 0x33221102#32))).regs.idbuf.toList.take 4 = [0x02#8, 0x11#8, 0x22#8, 0x33#8] := by
  decide

theorem test_read_idbuf : (tStep (tAccess (.read 0x1012 2))).rdata = 0x3322#32 := by decide

theorem test_host_errors :
    (tStep (tAccess (.write 0x1004 1 0#32))).regs.status.word = 0x0000001A#32 ∧
    (tStep (tAccess (.write 0x1000 2 0#32))).regs.status.word = 0x0000001A#32 ∧
    (tStep (tAccess (.read 0x1011 4))).regs.status.word = 0x0000001A#32 ∧
    (tStep (tAccess (.read 0x100D 1))).regs.status.word = 0x0000001A#32 ∧
    (tStep (tAccess (.read 0x103E 4))).regs.status.word = 0x0000001A#32 ∧
    (tStep (tAccess (.read 0x1040 2))).regs.status.word = 0x0000001A#32 ∧
    (tStep (tAccess (.read 0x103C 4))).regs.status.word = 0x00000002#32 ∧
    (tStep (tAccess (.read 0x1040 1))).regs.status.word = 0x00000002#32 := by decide

/-- R35, R38: four bytes from `BASE` - 2 on lie in no one register; two bytes there are not the block's. -/
theorem test_host_error_across_base :
    (tStep (tAccess (.read 0x0FFE 4))).regs.status.word = 0x0000001A#32 ∧
    (tStep (tAccess (.read 0x0FFE 4))).rdata = 0#32 ∧
    (tStep (tAccess (.write 0x0FFE 4 1#32))).frec = [.hostError (.write 0x0FFE 4 1#32)] ∧
    (tStep (tAccess (.read 0x0FFE 2))).regs.status.word = 0x00000002#32 := by decide

theorem test_command_issue : (tStep (tAccess (.write 0x1000 4 0x30000000#32))).seq = .busy 0x30000000#32 ∧
    (tStep (tAccess (.write 0x1000 4 0x30000000#32))).regs.status.word = 0x00000001#32 := by decide

theorem test_write_while_busy :
    (tStep { (tState.accept 0#32) with agenda := [.host (.write 0x100C 1 5#32)] }).regs.status.word = 0x00000019#32 ∧
    (tStep { (tState.accept 0#32) with agenda := [.host (.write 0x100C 1 5#32)] }).regs.keyType = 0#8 := by decide

/-- L2.1: a reserved opcode. -/
theorem test_illegal_word : (tStep (tState.accept 0x07000000#32)).regs.status.word = 0x0000100E#32 ∧
    (tStep (tState.accept 0x07000000#32)).frec = [.command (.illegalCommand 0x07000000#32) 0x07000000#32] := by decide

/-! ## Reset (L2.7) -/

set_option maxRecDepth 4000 in
/-- KS2's insert cut after two of its byte writes. -/
theorem test_reset_torn :
    (tStep { (tStore 0 []).accept 0x32000000#32 with agenda := [.reset ⟨0, false, 2, 0x77#8⟩] }).nvm
      = [(0, 0x01#8), (1, 0x00#8), (2, 0x77#8)] := by decide

set_option maxRecDepth 4000 in
/-- `OW_READ_ID` cut in a read slot. -/
theorem test_reset_truncated :
    (tStep { (tBus [true] tBytes).accept 0x10000000#32 with agenda := [.reset ⟨10, true, 0, 0#8⟩] }).bus.hist.drop 9
      = [.readSlot true, .truncated] := by decide

/-- The word placed by `withFetchWord` is the one the next step runs. -/
theorem test_withFetchWord : (tStep (tState.withFetchWord 32 0x34000007)).regs.result = 7#32 := by decide

/-! ## Host programs (R71) -/

theorem test_host_w : hostSetId tCfg tBytes =
    [.host (.write 0x1010 4 0x33221101#32), .host (.write 0x1014 4 0x75665544#32)] ∧
    hostK tCfg 0 = [.host (.write 0x1000 4 0x34000000#32), .controller, .host (.read 0x1004 4)] := by decide

/-! ## Witnesses: for each statement with hypotheses, concrete states and operands that meet them all together,
one for each clause -/

theorem witness_DecodeEncodeRoundTrip : (Instr.ksGet 65535).wellFormed = true ∧ (Instr.owWriteBit 1).wellFormed = true ∧
    (Instr.crcUpdate 0).wellFormed = true := by decide

theorem witness_EncodeDecodeRoundTrip : decode 0x3500FFFF#32 = .ok (.ksResolve 65535) := rfl

theorem witness_DecodeFollowsOpcodeMap :
    (∃ r ∈ opcodeMap, 0x210000FF#32 &&& r.mask = r.pattern) ∧
    (∀ r ∈ opcodeMap, 0x07000000#32 &&& r.mask ≠ r.pattern) ∧
    (∃ r ∈ opcodeMap, opcodeField 0x21000100#32 = opcodeField r.pattern ∧ 0x21000100#32 &&& r.mask ≠ r.pattern) := by
  decide

theorem witness_ReservedOpcodesAreIllegal :
    ∀ w ∈ [0x07000000#32, 0x0F000000#32, 0x14000000#32, 0x1F000000#32, 0x23000000#32, 0x2F000000#32, 0x36000000#32,
        0xFFFFFFFF#32], ∀ r ∈ opcodeMap, opcodeField r.pattern ≠ opcodeField w := by
  simp [opcodeMap, opcodeField]

theorem witness_StepRunsDecodedCommand :
    decode 0x3100FFFF#32 = .ok (.ksGet 65535) ∧ (tState.accept 0x3100FFFF#32).seq = .busy 0x3100FFFF#32 ∧
    (tState.accept 0x3100FFFF#32).agenda = [] ∧
    ({ tState.accept 0x3100FFFF#32 with agenda := [.controller, .controller] } : State).agenda
      = .controller :: [.controller] := ⟨rfl, rfl, rfl, rfl⟩

/-- An idle block, and a busy one, with a command write as next input. -/
theorem witness_CommandAcceptance :
    (tAccess (.write 0x1000 4 0x30000000#32)).agenda = .host (.write tCfg.base 4 0x30000000#32) :: [] ∧
    (tAccess (.write 0x1000 4 0x30000000#32)).regs.status.busy = Seq.isBusy .idle ∧
    (tAccess (.write 0x1000 4 0x30000000#32)).seq = .idle ∧
    ((tAccess (.write 0x1000 4 0x30000000#32)).accept 5#32).agenda = .host (.write tCfg.base 4 0x30000000#32) :: [] ∧
    ((tAccess (.write 0x1000 4 0x30000000#32)).accept 5#32).regs.status.busy = Seq.isBusy (.busy 5#32) ∧
    ((tAccess (.write 0x1000 4 0x30000000#32)).accept 5#32).seq = .busy 5#32 := ⟨rfl, rfl, rfl, rfl, rfl, rfl⟩

theorem witness_IllegalWordCompletes :
    decode 0x07000000#32 = .error .reservedOpcode ∧ decode 0x00010000#32 = .error .reservedBits ∧
    (tAccess (.write 0x1000 4 0x07000000#32)).seq = .idle ∧
    (tAccess (.write 0x1000 4 0x07000000#32)).regs.status.busy = false ∧
    (tAccess (.write 0x1000 4 0x07000000#32)).agenda = [.host (.write tCfg.base 4 0x07000000#32)] :=
  ⟨rfl, rfl, rfl, rfl, rfl⟩

theorem witness_StatusWordFields :
    FinishedWith (tState.accept 0#32) ((tState.accept 0#32).finish 7#16) 7#16 ∧
    FailedWith (tState.accept 0#32) ((tState.accept 0#32).raise .noDevice) .noDevice ∧
    FailedWith (tState.accept 0#32) ((tState.accept 0#32).raise .storeFull) .storeFull ∧
    FailedWith (tState.accept 0#32) ((tState.accept 0#32).raise (.corruptMarker 3)) (.corruptMarker 3) ∧
    (tState.accept 0#32).regs.status.fault = false ∧ (tState.accept 0#32).regs.status.hazard = false := by
  refine ⟨?_, ?_, ?_, ?_, rfl, rfl⟩ <;> constructor <;> first | rfl | (constructor <;> rfl)

theorem witness_NopCompletes : opcodeField 0x00000001#32 = 0x00#8 ∧ opcodeField 0x00FF0000#32 = 0x00#8 ∧
    0x00000001#32 ≠ 0x00000000#32 := by decide

theorem witness_ErrorMatrix : decode 0x14000000#32 = .error .reservedOpcode ∧
    exec (.ksGet 9) (tStore 2 [0x01#8, 0x01#8]) = .next (tAfterExec (.ksGet 9) (tStore 2 [0x01#8, 0x01#8])) ∧
    (tStore 2 [0x01#8, 0x01#8]).regs.status.errcode = 0x00#8 ∧
    (tAfterExec (.ksGet 9) (tStore 2 [0x01#8, 0x01#8])).regs.status.errcode = 0x11#8 := 
  ⟨rfl, rfl, by decide, by decide⟩

/-- The frame's premise with a command of each kind, and the premise of its error clause. -/
theorem witness_CommandFrame :
    exec .nop tState = .next (tAfterExec .nop tState) ∧
    exec (.ksSetCount 65535) tState = .next (tAfterExec (.ksSetCount 65535) tState) ∧
    exec .ksInsert (tStore 8 (List.replicate 8 0x01#8)) = .next (tAfterExec .ksInsert (tStore 8 (List.replicate 8 0x01#8))) ∧
    (tAfterExec .ksInsert (tStore 8 (List.replicate 8 0x01#8))).regs.status.errcode = 0x13#8 ∧
    exec .owReadId (tBus [false] []) = .next (tAfterExec .owReadId (tBus [false] [])) ∧
    (tAfterExec .owReadId (tBus [false] [])).regs.status.err = true := 
  ⟨rfl, rfl, rfl, by decide, rfl, by decide⟩

theorem witness_CrcUpdateCompletes : opcodeField 0x21000100#32 = 0x21#8 ∧ 0x21000100#32 &&& 0x0000FF00#32 ≠ 0#32 ∧
    opcodeField 0x21008000#32 = 0x21#8 ∧ 0x21008000#32 &&& 0x0000FF00#32 ≠ 0#32 := by decide

theorem witness_CrcSealCompletes : tState.regs.idbuf = Vector.replicate 8 0x00#8 := by decide

theorem witness_OwWriteBitCompletes : opcodeField 0x02000002#32 = 0x02#8 ∧ 0x02000002#32 &&& 0x0000FFFE#32 ≠ 0#32 ∧
    opcodeField 0x02008000#32 = 0x02#8 ∧ 0x02008000#32 &&& 0x0000FFFE#32 ≠ 0#32 := by decide

theorem witness_OwWriteByteCompletes : opcodeField 0x04000100#32 = 0x04#8 ∧ 0x04000100#32 &&& 0x0000FF00#32 ≠ 0#32 := by
  decide

theorem witness_OwWriteEnableCompletes : tState.cfg.weForm = .bytePlusPulse ∧
    ({ tState with cfg := { tCfg with weForm := .byteOnly } } : State).cfg.weForm = .byteOnly ∧
    ({ tState with cfg := { tCfg with weForm := .pulseOnly } } : State).cfg.weForm = .pulseOnly := by decide

/-- The environment left by `n` presence answers. -/
def tEnv (presence : List Bool) (bytes : List Byte) : Env :=
  { presence := presence, bits := bitsOfBytes bytes, samples := [], master := [], drawn := 0 }

set_option maxRecDepth 10000 in
theorem witness_OwReadIdSucceeds :
    (tBus [true] tBytes).bus.env.drawPresence = (true, tEnv [] tBytes) ∧
    (Env.drawBits (tEnv [] tBytes) 64).1 = bitsOfBytes tBytes ∧
    (identityOf tBytes).toList = bytesOfBits 8 (bitsOfBytes tBytes) ∧
    (identityOf tBytes)[0] = tCfg.familyCode ∧ crc8 ((identityOf tBytes).toList.take 7) = (identityOf tBytes)[7] := by
  decide

/-- An identity of family 0x02 with a correct CRC. -/
def tFamily2 : List Byte := [0x02#8, 0x1C#8, 0xB8#8, 0x01#8, 0#8, 0#8, 0#8, 0xA2#8]

set_option maxRecDepth 10000 in
/-- No presence; a wrong family; a wrong checksum under the right family. -/
theorem witness_OwReadIdFailures :
    (tBus [false] []).bus.env.drawPresence = (false, tEnv [] []) ∧
    (tBus [true] tFamily2).bus.env.drawPresence = (true, tEnv [] tFamily2) ∧
    (Env.drawBits (tEnv [] tFamily2) 64).1 = bitsOfBytes tFamily2 ∧
    (identityOf tFamily2).toList = bytesOfBits 8 (bitsOfBytes tFamily2) ∧
    (identityOf tFamily2)[0] ≠ tCfg.familyCode ∧ (identityOf tFamily2)[0] = 0x02#8 ∧ tCfg.ok = true ∧
    (tBus [true] tStaleBytes).bus.env.drawPresence = (true, tEnv [] tStaleBytes) ∧
    (Env.drawBits (tEnv [] tStaleBytes) 64).1 = bitsOfBytes tStaleBytes ∧
    (identityOf tStaleBytes).toList = bytesOfBits 8 (bitsOfBytes tStaleBytes) ∧
    (identityOf tStaleBytes)[0] = tCfg.familyCode ∧
    crc8 ((identityOf tStaleBytes).toList.take 7) ≠ (identityOf tStaleBytes)[7] := by
  decide

set_option maxRecDepth 10000 in
theorem witness_OwReadRawCompletes :
    (tBus [true] tFamily2).bus.env.drawPresence = (true, tEnv [] tFamily2) ∧
    (Env.drawBits (tEnv [] tFamily2) 64).1 = bitsOfBytes tFamily2 ∧
    (identityOf tFamily2).toList = bytesOfBits 8 (bitsOfBytes tFamily2) ∧
    (tBus [false] []).bus.env.drawPresence = (false, tEnv [] []) := by
  decide

set_option maxRecDepth 10000 in
theorem witness_OwCloneWriteSucceeds :
    (tBus [true, true] tBytes).bus.env.drawPresence = (true, tEnv [true] tBytes) ∧
    (tEnv [true] tBytes).drawPresence = (true, tEnv [] tBytes) ∧
    (Env.drawBits (tEnv [] tBytes) 64).1 = bitsOfBytes tBytes ∧
    (tBus [true, true] tBytes).regs.idbuf.toList = bytesOfBits 8 (bitsOfBytes tBytes) := by
  decide

/-- A clone write of the identity with the stale CRC byte 0. -/
def tStale : State := { tBus [true, true] tBytes with regs := { Regs.reset with idbuf := identityOf tStaleBytes } }

set_option maxRecDepth 10000 in
/-- No presence at the first reset; at the second; a read-back that differs; a stale CRC with a faithful key. -/
theorem witness_OwCloneWriteFailures :
    (tBus [false] []).bus.env.drawPresence = (false, tEnv [] []) ∧
    (tBus [true, false] []).bus.env.drawPresence = (true, tEnv [false] []) ∧
    (tEnv [false] []).drawPresence = (false, tEnv [] []) ∧
    (tBus [true, true] tFamily2).bus.env.drawPresence = (true, tEnv [true] tFamily2) ∧
    (tEnv [true] tFamily2).drawPresence = (true, tEnv [] tFamily2) ∧
    (Env.drawBits (tEnv [] tFamily2) 64).1 = bitsOfBytes tFamily2 ∧
    (identityOf tFamily2).toList = bytesOfBits 8 (bitsOfBytes tFamily2) ∧
    identityOf tFamily2 ≠ (tBus [true, true] tFamily2).regs.idbuf ∧
    tStale.bus.env.drawPresence = (true, tEnv [true] tBytes) ∧
    tStale.regs.idbuf[7] ≠ crc8 (tStale.regs.idbuf.toList.take 7) ∧
    bitsOfBytes tBytes = bitsOfBytes (cloneBytes tStale.regs.idbuf) := by
  decide

/-! ### Emulation -/

/-- The environment of `tMaster` after its first look. -/
def tLooked (events : List MasterEvent) : Env :=
  { presence := [], bits := [], samples := [], master := events, drawn := 0 }

theorem witness_EmulateNoReset :
    (tMaster [.short] []).bus.env.drawSample = (.short, tLooked []) ∧ LineSample.short ≠ .reset ∧
    (tMaster [.idle] []).bus.env.drawSample = (.idle, tLooked []) := by decide

theorem witness_EmulateIdentitySent :
    let s := tMaster [.reset] (tSlots 0x33#8 ++ List.replicate 64 .long)
    s.bus.env.drawSample = (.reset, tLooked (tSlots 0x33#8 ++ List.replicate 64 .long)) ∧
    (tLooked (tSlots 0x33#8 ++ List.replicate 64 .long)).masterAhead
      = (bitsOfByte 0x33#8).map slotFor ++ List.replicate 64 .long ++ Config.freeMaster 0 ∧
    (List.replicate 64 MasterEvent.long).length = 64 ∧
    (∀ x ∈ List.replicate 64 MasterEvent.long, x = .short ∨ x = .long) :=
  ⟨rfl, rfl, rfl, fun _ h => .inr (List.eq_of_mem_replicate h)⟩

theorem witness_EmulateOtherCommand :
    (tMaster [.reset] (tSlots 0xCC#8)).bus.env.drawSample = (.reset, tLooked (tSlots 0xCC#8)) ∧
    (tLooked (tSlots 0xCC#8)).masterAhead = (bitsOfByte 0xCC#8).map slotFor ++ Config.freeMaster 0 ∧
    0xCC#8 ≠ 0x33#8 := ⟨rfl, rfl, by decide⟩

theorem unfinished_seven : Unfinished (List.replicate 7 .short) :=
  ⟨fun _ h => .inl (List.eq_of_mem_replicate h), .inl (by decide)⟩

theorem unfinished_sixtyThree : Unfinished (tSlots 0x33#8 ++ List.replicate 63 .long) :=
  ⟨by decide, .inr ⟨List.replicate 63 .long, rfl, by decide⟩⟩

/-- A master that stops at once, one that stops after seven command slots, one that stops after 63 identity slots, and
one that restarts without end; with a timeout and without. -/
theorem witness_EmulateMasterStops :
    (tMaster [.reset] [.silent]).bus.env.drawSample = (.reset, tLooked [.silent]) ∧
    (tLooked [.silent]).masterAhead = [] ++ .silent :: Config.freeMaster 0 ∧ Unfinished [] ∧
    (tLooked (List.replicate 7 .short ++ [.silent])).masterAhead
      = List.replicate 7 .short ++ .silent :: Config.freeMaster 0 ∧ Unfinished (List.replicate 7 .short) ∧
    (tLooked (tSlots 0x33#8 ++ List.replicate 63 .long ++ [.silent])).masterAhead
      = (tSlots 0x33#8 ++ List.replicate 63 .long) ++ .silent :: Config.freeMaster 0 ∧
    Unfinished (tSlots 0x33#8 ++ List.replicate 63 .long) ∧
    (tLooked (List.replicate 7 .short ++ [.resets])).masterAhead
      = List.replicate 7 .short ++ .resets :: Config.freeMaster 0 ∧
    (tMaster [.reset] [.silent]).cfg.emuSlotTimeout = none ∧
    ({ tMaster [.reset] [.silent] with cfg := { tCfg with emuSlotTimeout := some 5 } } : State).cfg.emuSlotTimeout
      = some 5 :=
  ⟨rfl, rfl, ⟨by simp, .inl (by decide)⟩, rfl, unfinished_seven, rfl, unfinished_sixtyThree, rfl, rfl, rfl⟩

theorem witness_EmulateResultCodes :
    let s := (tMaster [.reset] (tSlots 0xCC#8)).accept 0x13000000#32
    exec .owEmulatePoll s = .next (tAfterExec .owEmulatePoll s) ∧ s.seq.isBusy = true ∧
    (tAfterExec .owEmulatePoll s).seq = .idle := ⟨rfl, rfl, rfl⟩

/-- A busy block whose master sends a reset after three command slots, and one after 63 identity slots. -/
theorem witness_EmulateRestart :
    let s := (tMaster [.reset] ([.short, .long, .short] ++ .reset :: tSlots 0xCC#8)).accept 0x13000000#32
    let b : Bus := { (tMaster [.reset] (tSlots 0xCC#8)).bus with line := .released }
    s.bus.env.drawSample = (.reset, tLooked ([.short, .long, .short] ++ .reset :: tSlots 0xCC#8)) ∧
    (tLooked ([.short, .long, .short] ++ .reset :: tSlots 0xCC#8)).masterAhead
      = [.short, .long, .short] ++ .reset :: (tLooked (tSlots 0xCC#8)).masterAhead ∧
    Unfinished [.short, .long, .short] ∧ b.env.drawSample = (.reset, tLooked (tSlots 0xCC#8)) ∧
    exec .owEmulatePoll s = .next (tAfterExec .owEmulatePoll s) ∧
    exec .owEmulatePoll (s.setBus b) = .next (tAfterExec .owEmulatePoll (s.setBus b)) ∧
    s.seq.isBusy = true ∧ (tAfterExec .owEmulatePoll s).seq = .idle ∧
    (tLooked (tSlots 0x33#8 ++ List.replicate 63 .long ++ .reset :: tSlots 0xCC#8)).masterAhead
      = (tSlots 0x33#8 ++ List.replicate 63 .long) ++ .reset :: (tLooked (tSlots 0xCC#8)).masterAhead :=
  ⟨rfl, rfl, ⟨by decide, .inl (by decide)⟩, rfl, rfl, rfl, rfl, rfl, rfl⟩

/-! ### Key store -/

/-- The shortest and the longest run, and the largest live type. -/
theorem witness_MarkerFunctions : marker 1 = 0x81#8 ∧ marker 127 = 0xFF#8 ∧ runlen 0xFF#8 = 127 ∧
    isTomb 0x7F#8 = false ∧ isTomb 0x80#8 = true := by decide

/-- Index 1 behind a run, and index 0 behind a leading run. -/
theorem witness_KsResolveCompletes :
    1 < liveCount (tStore 2 [0x01#8, 0x81#8, 0x01#8]).nvm ∧
    resolve (tStore 2 [0x01#8, 0x81#8, 0x01#8]).nvm 8 1 = .ok 2 ∧
    resolve (tStore 2 [0x82#8, 0x82#8, 0x01#8, 0x7F#8]).nvm 8 0 = .ok 2 := by decide

theorem witness_KsGetCompletes :
    let m := (tTable 2 [0x01#8, 0x81#8, 0x7F#8]).storeAll [(85, 0x41#8), (86, 0x00#8), (87, 0x42#8)]
    1 < liveCount m ∧ resolve m 8 1 = .ok 2 ∧ m.read (2 + 41 * 2 + 1 + 0) ≠ 0x00#8 ∧
    m.read (2 + 41 * 2 + 1 + 1) = 0x00#8 := by decide

theorem witness_KsIndexRange : liveCount (tStore 2 [0x01#8, 0x01#8]).nvm ≤ 2 ∧ liveCount (tStore 0 []).nvm ≤ 0 := by
  decide

/-- A walk past the table, an empty run, and the three faults of a delete in their order: a left run too long, a right
run that reaches the last live slot, and an empty run on either side. -/
theorem witness_KsWalkFaults :
    1 < liveCount (tStore 2 [0x01#8, 0x8A#8]).nvm ∧ resolve (tStore 2 [0x01#8, 0x8A#8]).nvm 8 1 = .error (.tableOverrun 11) ∧
    resolve (tStore 2 [0x01#8, 0x80#8]).nvm 8 1 = .error (.corruptMarker 1) ∧
    logicalEnd (tStore 2 [0x01#8, 0x8A#8]).nvm 8 = .error (.tableOverrun 11) ∧
    1 < liveCount (tStore 2 [0x01#8, 0x82#8, 0x85#8, 0x01#8]).nvm ∧
    logicalEnd (tStore 2 [0x01#8, 0x82#8, 0x85#8, 0x01#8]).nvm 8 = .ok 4 ∧
    resolve (tStore 2 [0x01#8, 0x82#8, 0x85#8, 0x01#8]).nvm 8 1 = .ok 3 ∧
    neighbours (tStore 2 [0x01#8, 0x82#8, 0x85#8, 0x01#8]).nvm 3 4 = .error (.corruptMarker 2) ∧
    neighbours (tTable 2 [0x01#8, 0x82#8, 0x01#8]) 0 3 = .error (.corruptMarker 1) ∧
    neighbours (tTable 2 [0x01#8, 0x81#8, 0x01#8]) 0 3 = .ok (0, 1) ∧
    neighbours (tTable 2 [0x80#8, 0x01#8, 0x01#8]) 1 3 = .error (.corruptMarker 0) := by decide

/-- The walk to index 1 over a run of one, and the walk that leaves the table. -/
theorem witness_KsWalkFaults_visited :
    Visited (tTable 2 [0x01#8, 0x81#8, 0x01#8]) 8 2 1 ∧ Visited (tTable 2 [0x01#8, 0x8A#8]) 8 11 1 := by
  constructor
  · exact .skip (.count .start (by decide) (by unfold Tomb; decide)) (by decide) (by unfold Tomb; decide) (by decide)
  · exact .skip (.count .start (by decide) (by unfold Tomb; decide)) (by decide) (by unfold Tomb; decide) (by decide)

/-- No tombstone with room, and in a full table; a run of one; a run of two that begins the table. -/
theorem witness_InsertFirstFit :
    (logicalEnd (tTable 1 [0x01#8]) 8 = .ok 1 ∧ ∀ q, q < 1 → ¬ Tomb (tTable 1 [0x01#8]) q) ∧
    (logicalEnd (tTable 8 (List.replicate 8 0x01#8)) 8 = .ok 8 ∧
      ∀ q, q < 8 → ¬ Tomb (tTable 8 (List.replicate 8 0x01#8)) q) ∧
    (logicalEnd (tTable 2 [0x01#8, 0x81#8, 0x01#8]) 8 = .ok 3 ∧ Tomb (tTable 2 [0x01#8, 0x81#8, 0x01#8]) 1 ∧
      (∀ q, q < 1 → ¬ Tomb (tTable 2 [0x01#8, 0x81#8, 0x01#8]) q) ∧
      runlen (markerAt (tTable 2 [0x01#8, 0x81#8, 0x01#8]) 1) = 1) ∧
    (logicalEnd (tTable 1 [0x82#8, 0x82#8, 0x01#8]) 8 = .ok 3 ∧ Tomb (tTable 1 [0x82#8, 0x82#8, 0x01#8]) 0 ∧
      (∀ q, q < 0 → ¬ Tomb (tTable 1 [0x82#8, 0x82#8, 0x01#8]) q) ∧
      runlen (markerAt (tTable 1 [0x82#8, 0x82#8, 0x01#8]) 0) = 2 ∧ 0 + 2 + 1 ≤ 3) ∧
    tCfg.insertRunEnd = .head ∧ ({ tCfg with insertRunEnd := .tail } : Config).insertRunEnd = .tail := by
  unfold Tomb; decide

/-- An insert at the logical end, and one into a run of two. -/
theorem witness_KsInsertCompletes :
    tCfg.ok = true ∧ (tStore 1 [0x82#8, 0x82#8, 0x01#8]).regs.keyType.getLsbD 7 = false ∧
    (tStore 1 [0x82#8, 0x82#8, 0x01#8]).regs.namebuf[1] = 0x00#8 ∧
    (∀ k : Nat, ∀ hk : k < 1, (tStore 1 [0x82#8, 0x82#8, 0x01#8]).regs.namebuf[k] ≠ 0x00#8) ∧
    chooseSlot tCfg (tStore 1 [0x82#8, 0x82#8, 0x01#8]).nvm = .ok ⟨0, 0, [(1, 1), (1, 1)]⟩ ∧
    chooseSlot tCfg (tStore 1 [0x01#8]).nvm = .ok ⟨1, 1, []⟩ := by
  refine ⟨by decide, by decide, by decide, ?_, by decide, by decide⟩
  intro k hk
  have h : k = 0 := by omega
  subst h
  exact (by decide : (tStore 1 [0x82#8, 0x82#8, 0x01#8]).regs.namebuf[0] ≠ 0x00#8)

theorem witness_KsInsertRefusals :
    ({ Regs.reset with keyType := 0x80#8 } : Regs).keyType.getLsbD 7 = true ∧
    ({ Regs.reset with keyType := 0x7F#8, namebuf := Vector.replicate 32 0x41#8 } : Regs).keyType.getLsbD 7 = false ∧
    (∀ (k : Nat) (hk : k < 32), (Vector.replicate 32 0x41#8)[k] ≠ 0x00#8) ∧
    (tStore 8 (List.replicate 8 0x01#8)).regs.keyType.getLsbD 7 = false ∧
    (tStore 8 (List.replicate 8 0x01#8)).regs.namebuf[31] = 0x00#8 ∧
    chooseSlot tCfg (tStore 8 (List.replicate 8 0x01#8)).nvm = .error .storeFull ∧
    chooseSlot tCfg (tStore 2 [0x01#8, 0x80#8]).nvm = .error (.corruptMarker 1) ∧
    (1 < 3 ∧ Tomb (tTable 2 [0x01#8, 0x82#8, 0x01#8]) 1 ∧ (∀ q, q < 1 → ¬ Tomb (tTable 2 [0x01#8, 0x82#8, 0x01#8]) q) ∧
      3 < 1 + runlen (markerAt (tTable 2 [0x01#8, 0x82#8, 0x01#8]) 1) + 1) := by
  refine ⟨by decide, by decide, ?_, by decide, by decide, by decide, by decide, by unfold Tomb; decide⟩
  intro k hk
  simp

/-- No neighbours; a run on each side. -/
theorem witness_KsDeleteCompletes :
    0 < liveCount (tStore 1 [0x01#8]).nvm ∧ logicalEnd (tStore 1 [0x01#8]).nvm 8 = .ok 1 ∧
    resolve (tStore 1 [0x01#8]).nvm 8 0 = .ok 0 ∧ neighbours (tStore 1 [0x01#8]).nvm 0 1 = .ok (0, 0) ∧
    1 < liveCount (tStore 3 [0x01#8, 0x81#8, 0x01#8, 0x82#8, 0x82#8, 0x01#8]).nvm ∧
    logicalEnd (tStore 3 [0x01#8, 0x81#8, 0x01#8, 0x82#8, 0x82#8, 0x01#8]).nvm 8 = .ok 6 ∧
    resolve (tStore 3 [0x01#8, 0x81#8, 0x01#8, 0x82#8, 0x82#8, 0x01#8]).nvm 8 1 = .ok 2 ∧
    neighbours (tStore 3 [0x01#8, 0x81#8, 0x01#8, 0x82#8, 0x82#8, 0x01#8]).nvm 2 6 = .ok (1, 2) := by decide

/-- A well-formed table with a run of two. -/
def tRun : State := tStore 2 [0x01#8, 0x82#8, 0x82#8, 0x01#8]

theorem tRun_wf : TableWFAt 8 4 tRun.nvm where
  logicalEnd := by decide
  bound := by decide
  liveSlots := by decide
  lastLive := fun _ => by unfold Tomb; decide
  spans := by
    rintro h t ⟨h1, h2, h3, h4, h5⟩
    have h0 : Tomb tRun.nvm h := h3 h (Nat.le_refl _) h1
    have ht : Tomb tRun.nvm t := h3 t h1 (Nat.le_refl _)
    unfold Tomb at h0 ht h4 h5
    interval_cases t <;> interval_cases h <;> first | (exact absurd h0 (by decide)) | (exact absurd ht (by decide)) | skip
    all_goals first | decide | (revert h4 h5; decide)

set_option maxRecDepth 4000 in
theorem witness_InsertKeepsTable :
    tRun.cfg.ok = true ∧ TableWF tRun.cfg.nslots tRun.nvm ∧ exec .ksInsert tRun = .next (tAfterExec .ksInsert tRun) ∧
    (tAfterExec .ksInsert tRun).regs.status.err = false :=
  ⟨by decide, ⟨4, tRun_wf⟩, rfl, by decide⟩

set_option maxRecDepth 4000 in
theorem witness_DeleteKeepsTable :
    tRun.cfg.ok = true ∧ TableWF tRun.cfg.nslots tRun.nvm ∧
    exec (.ksDelete 0) tRun = .next (tAfterExec (.ksDelete 0) tRun) ∧
    (tAfterExec (.ksDelete 0) tRun).regs.status.err = false ∧
    exec (.ksDelete 1) tRun = .next (tAfterExec (.ksDelete 1) tRun) ∧
    (tAfterExec (.ksDelete 1) tRun).regs.status.err = false :=
  ⟨by decide, ⟨4, tRun_wf⟩, rfl, by decide, rfl, by decide⟩

set_option maxRecDepth 4000 in
theorem witness_InsertThenGet :
    tRun.cfg.ok = true ∧ exec .ksInsert tRun = .next (tAfterExec .ksInsert tRun) ∧
    (tAfterExec .ksInsert tRun).regs.status.err = false ∧ tRun.regs.namebuf[0] ≠ 0x00#8 ∧
    tRun.regs.namebuf[1] = 0x00#8 := ⟨by decide, rfl, by decide, by decide, by decide⟩

theorem witness_ResolveCountsLiveSlots :
    resolve tRun.nvm 8 0 = .ok 0 ∧ resolve tRun.nvm 8 1 = .ok 3 ∧ 0 < 1 ∧ TableWF 8 tRun.nvm ∧ 1 < liveCount tRun.nvm :=
  ⟨by decide, by decide, by decide, ⟨4, tRun_wf⟩, by decide⟩

/-! ### The host's side -/

/-- An unmapped read, a read across a register's end, an unaligned one, one too wide; writes to read-only registers,
a narrow `CMD` write, and any write while busy. -/
theorem witness_HostErrorRefused :
    (tAccess (.read (0x1000 + 0x0D) 1)).agenda = .host (.read (tCfg.base + 0x0D) 1) :: [] ∧
    (∀ x ∈ [(0x0D, 1), (0x0F, 1), (0x41, 1), (0x40, 2), (0x0C, 2), (0x11, 2), (0x00, 8), (0x10, 0)],
      readTarget x.1 x.2 = none) ∧
    (∀ x ∈ [(0x04, 4), (0x0B, 1), (0x18, 1), (0x1F, 1), (0x40, 1), (0x00, 2), (0x02, 2), (0x03, 1), (0x0D, 1)],
      writeTarget false x.1 x.2 = none) ∧
    (∀ x ∈ [(0x00, 4), (0x0C, 1), (0x10, 4), (0x17, 1), (0x20, 4), (0x3F, 1)], writeTarget false x.1 x.2 ≠ none) ∧
    writeTarget true 0x10 4 = none ∧
    (¬ ∃ r, LegalRead r 0x0D 1) ∧ (¬ ∃ r, LegalWrite false r 0x04 4) ∧ (¬ ∃ r, LegalWrite true r 0x10 4) ∧
    (tAccess (.read 0x0FFE 4)).agenda = .host (.read 0x0FFE 4) :: [] ∧
    (tAccess (.write 0x0FFF 2 1#32)).agenda = .host (.write 0x0FFF 2 1#32) :: [] ∧
    0x0FFE < tCfg.base ∧ tCfg.base < 0x0FFE + 4 ∧ 0x0FFF < tCfg.base ∧ tCfg.base < 0x0FFF + 2 := by
  refine ⟨rfl, by decide, by decide, by decide, by decide, ?_, ?_, ?_, rfl, rfl, by decide, by decide, by decide, by decide⟩
  · rintro ⟨r, hr, -, -, h3, h4⟩
    revert r
    decide
  · rintro ⟨r, ⟨hr, -, -, h3, h4⟩, ha, -⟩
    have key : ∀ q ∈ registerMap, q.first ≤ 0x04 → 0x04 + 4 ≤ q.first + q.size →
        ¬ (q.access = .readWrite ∨ q.name = .cmd) := by decide
    exact key r hr h3 h4 (ha.imp_right And.left)
  · rintro ⟨r, -, -, h⟩
    cases h

/-- The last byte of the map, all of `IDBUF`'s second half, and all of `STATUS` while busy; a word and a byte at the
offsets of R17. -/
theorem witness_RegisterReads :
    (tAccess (.read 0x1040 1)).agenda = .host (.read (tCfg.base + 0x40) 1) :: [] ∧
    LegalRead ⟨.crc, 0x40, 1, .readOnly⟩ 0x40 1 ∧ LegalRead ⟨.idbuf, 0x10, 8, .readWrite⟩ 0x14 4 ∧
    LegalRead ⟨.namebuf, 0x20, 32, .readWrite⟩ 0x3E 2 ∧ LegalRead ⟨.status, 0x04, 4, .readOnly⟩ 0x07 1 ∧
    (tAccess (.read 0x1040 1)).regs.status.busy = false ∧
    (tAccess (.read 0x1008 4)).agenda = .host (.read (tCfg.base + 0x08) 4) :: [] ∧
    (tAccess (.read 0x101F 1)).agenda = .host (.read (tCfg.base + (0x18 + 7)) 1) :: [] := by
  refine ⟨rfl, ?_, ?_, ?_, ?_, rfl, rfl, rfl⟩ <;> constructor <;> decide

/-- R17's offsets on three reads: the last byte of `IDBUF`, the first of `RBBUF`, and all of `CMD`. -/
theorem test_read_offsets :
    (tStep (tAccess (.read 0x1017 1))).rdata = 0x75#32 ∧ (tStep (tAccess (.read 0x1018 1))).rdata = 0#32 ∧
    (tStep (((tAccess (.read 0x1000 4)).accept 0x30000000#32).finish 3#16)).rdata = 0x30000000#32 := by decide

theorem witness_BusyReads :
    ((tAccess (.read 0x1010 4)).accept 0#32).agenda = .host (.read (tCfg.base + 0x10) 4) :: [] ∧
    LegalRead ⟨.idbuf, 0x10, 8, .readWrite⟩ 0x10 4 ∧ ((tAccess (.read 0x1010 4)).accept 0#32).regs.status.busy = true ∧
    RegName.idbuf ≠ .status ∧
    ((tAccess (.read 0x1004 4)).accept 0#32).agenda = .host (.read (tCfg.base + 4) 4) :: [] := by
  refine ⟨rfl, ?_, rfl, by decide, rfl⟩
  constructor <;> decide

theorem witness_RegisterWrites :
    (tAccess (.write 0x103C 4 0x44332211#32)).agenda = .host (.write (tCfg.base + 0x3C) 4 0x44332211#32) :: [] ∧
    LegalWrite (tAccess (.write 0x103C 4 0x44332211#32)).regs.status.busy ⟨.namebuf, 0x20, 32, .readWrite⟩ 0x3C 4 ∧
    LegalWrite false ⟨.keyType, 0x0C, 1, .readWrite⟩ 0x0C 1 ∧ LegalWrite false ⟨.idbuf, 0x10, 8, .readWrite⟩ 0x16 2 ∧
    (tAccess (.write 0x103F 1 0xFF#32)).agenda = .host (.write (tCfg.base + (0x20 + 31)) 1 0xFF#32) :: [] ∧
    (tAccess (.write 0x103F 1 0xFF#32)).regs.status.busy = false := by
  refine ⟨rfl, ?_, ?_, ?_, rfl, rfl⟩ <;> (constructor; (constructor <;> decide); decide; decide)

/-! ### Reset -/

/-- A reset of an idle block; one while an insert, a `KS_GET`, an `ILLEGAL` word, or an insert or a delete that fails its
checks runs. -/
theorem witness_ResetClearsRegisters :
    ({ tState with agenda := [.reset ⟨0, false, 0, 0#8⟩] } : State).agenda = .reset ⟨0, false, 0, 0#8⟩ :: [] ∧
    tState.seq = .idle ∧ (tState.accept 0x32000000#32).seq = .busy 0x32000000#32 ∧
    decode 0x07000000#32 = .error .reservedOpcode ∧ decode 0x31000001#32 = .ok (.ksGet 1) ∧
    insertPlan tCfg { Regs.reset with keyType := 0x80#8 } [] = .error (.badType 0x80#8) ∧
    deletePlan 8 (tTable 1 [0x01#8]) 1 = .error (.indexRange 1) := ⟨rfl, rfl, rfl, rfl, rfl, rfl, rfl⟩

/-- A byte write cut in its third slot, and a `KS_SET_COUNT` cut in its second byte. -/
theorem witness_ResetCutsCommand :
    let s : State := { tState.accept 0x040000CC#32 with agenda := [.reset ⟨2, true, 1, 0x5A#8⟩] }
    s.agenda = .reset ⟨2, true, 1, 0x5A#8⟩ :: [] ∧ s.seq = .busy 0x040000CC#32 ∧
    decode 0x040000CC#32 = .ok (.owWriteByte 0xCC) ∧
    exec (.owWriteByte 0xCC) s = .next (tAfterExec (.owWriteByte 0xCC) s) ∧
    (tAfterExec (.owWriteByte 0xCC) s).bus.hist = s.bus.hist ++ writeEvents 0xCC#8 ∧
    (tAfterExec (.owWriteByte 0xCC) s).seq = .idle ∧
    decode 0x34001234#32 = .ok (.ksSetCount 0x1234) ∧ 1 < (setCountPlan 0x1234).writes.length :=
  ⟨rfl, rfl, rfl, rfl, rfl, rfl, rfl, by decide⟩

theorem witness_ResetCutsCommand_plans :
    insertPlan tRun.cfg tRun.regs tRun.nvm = .ok (tPlan (insertPlan tRun.cfg tRun.regs tRun.nvm)) ∧
    deletePlan 8 tRun.nvm 1 = .ok (tPlan (deletePlan 8 tRun.nvm 1)) ∧
    0 < (tPlan (insertPlan tRun.cfg tRun.regs tRun.nvm)).writes.length ∧
    decode 0x32000000#32 = .ok .ksInsert ∧ decode 0x33000001#32 = .ok (.ksDelete 1) :=
  ⟨rfl, rfl, by decide, rfl, rfl⟩

/-- A pass that waits, and one that its master restarts without end, each cut by a reset. -/
theorem witness_ResetCutsCommand_pass :
    let s (events : List MasterEvent) : State :=
      { (tMaster [.reset] events).accept 0x13000000#32 with agenda := [.reset ⟨4, true, 0, 0#8⟩] }
    (∀ events, (s events).agenda = .reset ⟨4, true, 0, 0#8⟩ :: []) ∧ (∀ events, (s events).seq = .busy 0x13000000#32) ∧
    decode 0x13000000#32 = .ok .owEmulatePoll ∧
    (∀ events, (s events).bus.env.drawSample = (.reset, tLooked events)) ∧
    (tLooked (List.replicate 7 .short ++ [.silent])).masterAhead
      = List.replicate 7 .short ++ .silent :: Config.freeMaster 0 ∧
    (tLooked (List.replicate 7 .short ++ [.resets])).masterAhead
      = List.replicate 7 .short ++ .resets :: Config.freeMaster 0 ∧
    Unfinished (List.replicate 7 .short) ∧ (∀ events, (s events).cfg.emuSlotTimeout = none) :=
  ⟨fun _ => rfl, fun _ => rfl, rfl, fun _ => rfl, rfl, rfl, unfinished_seven, fun _ => rfl⟩

/-- R162: a pass that waits after two command slots, cut in its next slot; and one that its master restarts without
end, cut after five. -/
theorem test_reset_cuts_pass :
    (tStep { (tMaster [.reset] [.short, .long, .silent]).accept 0x13000000#32 with
      agenda := [.reset ⟨9, true, 0, 0#8⟩] }).bus.hist
      = [.slaveSaw .reset, .slavePresence, .slaveSaw .short, .slaveSaw .long, .truncated] ∧
    (tStep { (tMaster [.reset] [.resets]).accept 0x13000000#32 with agenda := [.reset ⟨5, false, 0, 0#8⟩] }).bus.hist
      = [.slaveSaw .reset, .slavePresence, .slaveSaw .reset, .slavePresence, .slaveSaw .reset] := ⟨rfl, rfl⟩

/-- R133, R39: a busy read of `RESULT` leaves a waiting pass waiting. -/
theorem test_waiting_pass_after_read :
    let s : State := { (tMaster [.reset] []).accept 0x13000000#32 with agenda := [.host (.read 0x1008 4)] }
    (tStep s).bus = s.bus ∧ (tStep s).reads = 1 ∧ (tStep s).seq = .busy 0x13000000#32 := ⟨rfl, rfl, rfl⟩

/-! ### Invariants -/

/-- A consistent state with a record of a fault and a table, a command running and a write on its way. -/
def tLive : State :=
  { (tRun.raise .storeFull).accept 0x33000000#32 with agenda := [.host (.write 0x100C 1 5#32), .controller] }

theorem tLive_consistent : tLive.Consistent where
  parameters := by decide
  errCode := rfl
  codeListed := by decide
  busySeq := rfl
  cmdSeq := fun w h => by cases h; rfl
  notBoth := rfl
  hazardFault := fun h => by cases h
  faultLogged := fun _ h => by cases h
  resultHigh := by decide
  line := rfl
  nvmForm := by decide
  nvmBound := by decide

theorem witness_ConsistentKept : tLive.Consistent ∧ step tLive = .next (tStep tLive) := ⟨tLive_consistent, rfl⟩

theorem witness_RecordsOnlyGrow : step tLive = .next (tStep tLive) ∧ step (tState.accept 0x01000000#32)
    = .next (tStep (tState.accept 0x01000000#32)) := ⟨rfl, rfl⟩

end Sys2Proof.Tests
end

section
/-! PROOFS. What a command can do to the block, said once: it works on the bus, the NVM and the operand registers and
then ends with `finish` or `raise`; a pass without end leaves the state as it is. -/

namespace Sys2Proof.Machine

/-! ## Bus operations only append to the history (R27) -/

theorem Bus.resetSlot_prefix (t : Timing) (b : Bus) : b.hist <+: (b.resetSlot t).2.hist :=
  List.prefix_append ..

theorem Bus.readSlots_prefix (t : Timing) (b : Bus) (n : Nat) : b.hist <+: (b.readSlots t n).2.hist := by
  simp [Bus.readSlots_hist]

theorem Bus.writeByte_prefix (t : Timing) (b : Bus) (v : Byte) : b.hist <+: (b.writeByte t v).hist := by
  simp [Bus.writeByte, (b.writeSlots_hist_env t _).1]

theorem Bus.programSlots_prefix (t : Timing) (b : Bus) (bits : List Bool) :
    b.hist <+: (b.programSlots t bits).hist := by
  simp [(b.programSlots_hist_env t bits).1]

theorem Bus.readBytes_prefix (t : Timing) (b : Bus) (n : Nat) : b.hist <+: (b.readBytes t n).2.hist := by
  induction n generalizing b with
  | zero => exact List.prefix_rfl
  | succ n ih => exact (b.readSlots_prefix t 8).trans (ih _)

theorem Bus.writeEnableSeq_prefix (c : Config) (b : Bus) : b.hist <+: (b.writeEnableSeq c).hist := by
  unfold Bus.writeEnableSeq
  split
  · exact (b.writeByte_prefix _ _).trans (List.prefix_append ..)
  · exact b.writeByte_prefix _ _
  · exact List.prefix_append ..

theorem Bus.readRomRaw_prefix (t : Timing) (b : Bus) : b.hist <+: (b.readRomRaw t).2.hist := by
  unfold Bus.readRomRaw
  dsimp only
  split
  · exact ((b.resetSlot_prefix t).trans (Bus.writeByte_prefix ..)).trans (Bus.readBytes_prefix ..)
  · exact b.resetSlot_prefix t

theorem Bus.cloneSeq_prefix (c : Config) (id : Vector Byte 8) (b : Bus) :
    b.hist <+: (b.cloneSeq c id).2.hist := by
  unfold Bus.cloneSeq
  dsimp only
  split
  · calc b.hist
      _ <+: _ := b.resetSlot_prefix c.timing
      _ <+: _ := Bus.writeByte_prefix _ _ cmdSkipRom
      _ <+: _ := Bus.writeEnableSeq_prefix c _
      _ <+: _ := Bus.writeByte_prefix _ _ cmdLoadBuffer
      _ <+: _ := Bus.programSlots_prefix _ _ (cloneBits c id)
      _ <+: _ := Bus.writeEnableSeq_prefix c _
  · exact b.resetSlot_prefix _

/-! ## A command at work -/

/-- Byte writes that stay inside the counter and the slot table (R34, R41). -/
def InTable (nslots : Nat) (cells : List Host.Cell) : Prop := ∀ c ∈ cells, c.1 < 2 + 41 * nslots

/-- `u` is the state `s` with a command at work on it: only the operand registers, `RESULT`, the bus and the slot table
may differ, and the history has only grown. -/
structure Working (s u : State) : Prop where
  untouched : Untouched s u
  seq : u.seq = s.seq
  status : u.regs.status = s.regs.status
  frec : u.frec = s.frec
  hist : s.bus.hist <+: u.bus.hist
  nvm : ∃ cells, u.nvm = s.nvm.storeAll cells ∧ InTable s.cfg.nslots cells

theorem inTable_nil (nslots : Nat) : InTable nslots [] := by simp [InTable]

theorem Working.refl (s : State) : Working s s where
  untouched := ⟨rfl, rfl, rfl, rfl, rfl⟩
  seq := rfl
  status := rfl
  frec := rfl
  hist := List.prefix_rfl
  nvm := ⟨[], rfl, inTable_nil _⟩

section
variable {s u : State} (h : Working s u)
include h

theorem Working.setBus {b : Bus} (hb : u.bus.hist <+: b.hist) : Working s (u.setBus b) :=
  { h with untouched := { h.untouched with }, hist := h.hist.trans hb }

theorem Working.setKeyType (t : Byte) : Working s (u.setKeyType t) := { h with untouched := { h.untouched with } }

theorem Working.setIdbuf (id : Vector Byte 8) : Working s (u.setIdbuf id) := { h with untouched := { h.untouched with } }

theorem Working.setRbbuf (rb : Vector Byte 8) : Working s (u.setRbbuf rb) := { h with untouched := { h.untouched with } }

theorem Working.setNamebuf (nm : Vector Byte 32) : Working s (u.setNamebuf nm) :=
  { h with untouched := { h.untouched with } }

theorem Working.setCrc (c : Byte) : Working s (u.setCrc c) := { h with untouched := { h.untouched with } }

theorem Working.loadRecord (p : Nat) : Working s (u.loadRecord p) := ((h.setKeyType _).setNamebuf _).setIdbuf _

theorem Working.readRomRaw : Working s u.readRomRaw.2 := by
  have hb := u.bus.readRomRaw_prefix u.cfg.timing
  unfold State.readRomRaw
  split
  · next heq => exact (h.setBus (by rwa [heq] at hb)).setRbbuf _
  · next heq => exact h.setBus (by rwa [heq] at hb)

end

theorem Working.writeNvm {s : State} {cells : List Host.Cell} (h : InTable s.cfg.nslots cells) :
    Working s (s.writeNvm cells) :=
  { Working.refl s with untouched := ⟨rfl, rfl, rfl, rfl, rfl⟩, nvm := ⟨cells, rfl, h⟩ }

/-! ## The plans of the key store stay inside the table (R34, R82) -/

theorem InTable.append {nslots : Nat} {cs ds : List Host.Cell} (hc : InTable nslots cs) (hd : InTable nslots ds) :
    InTable nslots (cs ++ ds) := fun c h => (List.mem_append.1 h).elim (hc c) (hd c)

theorem inTable_memWrite {nslots a n : Nat} (v : Nat) (h : a + n ≤ 2 + 41 * nslots) :
    InTable nslots (memWrite a n v) := fun c hc => by
  have := mem_memWrite hc
  omega

/-- The counter lies below the table. -/
theorem inTable_counter (nslots v : Nat) : InTable nslots (memWrite 0 2 v) := inTable_memWrite v (by omega)

theorem inTable_marker {nslots q : Nat} (v : Nat) (h : q < nslots) : InTable nslots (memWrite (slotAddr q) 1 v) :=
  inTable_memWrite v (by unfold slotAddr; omega)

theorem inTable_markWrites {nslots : Nat} {marks : List (Nat × Nat)} (h : ∀ x ∈ marks, x.1 < nslots) :
    InTable nslots (markWrites marks) := by
  induction marks with
  | nil => exact inTable_nil _
  | cons x rest ih =>
    exact (inTable_marker _ (h x List.mem_cons_self)).append (ih fun y hy => h y (List.mem_cons_of_mem _ hy))

/-- The 41 bytes of a record lie in its slot (R42, R88). -/
theorem inTable_recordWrites {nslots p : Nat} (r : Regs) (n : Nat) (h : p < nslots) :
    InTable nslots (recordWrites r n p) := by
  have hname : InTable nslots (cellsFrom (slotAddr p + 1) (r.namebuf.toList.take (n + 1))) := fun c hc => by
    have hlen : (r.namebuf.toList.take (n + 1)).length ≤ 32 := by simp
    have := mem_cellsFrom hc
    unfold slotAddr at this
    omega
  unfold recordWrites
  refine (((inTable_marker _ h).append hname).append (inTable_memWrite _ ?_)).append (inTable_memWrite _ ?_) <;>
    (unfold slotAddr; omega)

/-- First fit chooses a slot and boundary markers inside the table (R91 to R94). -/
theorem chooseBelow_inside {c : Config} {m : Memory} {le : Nat} {x : InsertChoice} (hle : le ≤ c.nslots)
    (h : chooseBelow c m le = .ok x) : x.slot < c.nslots ∧ ∀ y ∈ x.marks, y.1 < c.nslots := by
  unfold chooseBelow at h
  split at h
  · split at h
    · cases h
    · cases h
      exact ⟨by dsimp only; omega, by simp⟩
  · dsimp only at h
    split_ifs at h
    · cases h
      exact ⟨by dsimp only; omega, by simp⟩
    · split at h <;> cases h <;>
        (simp only [List.mem_cons, List.not_mem_nil, or_false, forall_eq_or_imp, forall_eq]; omega)

theorem insertPlan_inTable {c : Config} {r : Regs} {m : Memory} {plan : StorePlan} (h : insertPlan c r m = .ok plan) :
    InTable c.nslots plan.writes := by
  unfold insertPlan chooseSlot at h
  split at h
  · cases h
  · split at h
    · cases h
    · split at h
      · cases h
      · next x hx =>
        split at hx
        · cases hx
        · next hle =>
          cases h
          obtain ⟨hslot, hmarks⟩ := chooseBelow_inside (logicalEnd_ok hle) hx
          exact ((inTable_markWrites hmarks).append (inTable_counter _ _)).append (inTable_recordWrites _ _ hslot)

/-- The run to the right of a freed slot ends inside the table (R97). -/
theorem neighbours_inside {m : Memory} {p le l r nslots : Nat} (hp : p < nslots) (hle : le ≤ nslots)
    (h : neighbours m p le = .ok (l, r)) : p + r < nslots := by
  unfold neighbours at h
  split at h
  · cases h
  · split at h
    · cases h
    · next hr =>
      cases h
      unfold rightRun at hr
      split_ifs at hr <;> cases hr <;> omega

theorem deletePlan_inTable {nslots : Nat} {m : Memory} {n : Nat} {plan : StorePlan}
    (h : deletePlan nslots m n = .ok plan) : InTable nslots plan.writes := by
  unfold deletePlan at h
  split at h
  · cases h
  · split at h
    · cases h
    · next hle =>
      split at h
      · cases h
      · next p hp =>
        split at h
        · cases h
        · next l r hn =>
          cases h
          have hp := (resolve_ok hp).1
          have hr := neighbours_inside hp (logicalEnd_ok hle) hn
          refine ((inTable_marker _ hp).append (inTable_counter _ _)).append ?_
          unfold mergeWrites
          split
          · exact inTable_nil _
          · exact (inTable_marker _ (by omega)).append (inTable_marker _ hr)

theorem setCountPlan_inTable (nslots n : Nat) : InTable nslots (setCountPlan n).writes := inTable_counter _ _

/-! ## How a command ends (R75, R147) -/

/-- `t` is the end of the command of `s`: some work, then `finish` or `raise`. -/
inductive Completes (s : State) : State → Prop where
  | finish {u : State} (h : Working s u) (v : Half) : Completes s (u.finish v)
  | raise {u : State} (h : Working s u) (e : CmdError) : Completes s (u.raise e)

theorem carryOut_completes {s : State} {r : Except CmdError StorePlan}
    (h : ∀ plan, r = .ok plan → InTable s.cfg.nslots plan.writes) : Completes s (s.carryOut r) := by
  cases r with
  | ok plan => exact .finish (.writeNvm (h plan rfl)) _
  | error e => exact .raise (.refl s) e

theorem Working.checkIdentity_completes {s u : State} (h : Working s u) : Completes s u.checkIdentity := by
  unfold State.checkIdentity
  dsimp only
  split_ifs
  · exact .raise h _
  · exact .raise h _
  · exact .finish (h.setIdbuf _) _

theorem Working.cloneVerify_completes {s u : State} (h : Working s u) : Completes s u.cloneVerify := by
  unfold State.cloneVerify
  dsimp only
  split_ifs
  · exact .raise h.readRomRaw _
  · exact .finish h.readRomRaw _
  · exact .raise h.readRomRaw _

/-- `OW_EMULATE_POLL` ends with `finish`, or leaves the state as it is (R128, R133). -/
theorem execOwEmulatePoll_cases {s t : State} (h : execOwEmulatePoll s = .next t) : t = s ∨ Completes s t := by
  unfold execOwEmulatePoll at h
  dsimp only at h
  split at h <;> cases h
  · exact .inr (.finish ((Working.refl s).setBus (by simp)) _)
  · exact .inl rfl
  · exact .inl rfl

/-- What a command's step can be: its completion, or, for a pass without end alone, no change. -/
theorem exec_cases {i : Instr} {s t : State} (h : exec i s = .next t) :
    (i = .owEmulatePoll ∧ t = s) ∨ Completes s t := by
  have work := Working.refl s
  cases i with
  | owEmulatePoll => exact (execOwEmulatePoll_cases h).imp_left fun ht => ⟨rfl, ht⟩
  | nop => cases h; exact .inr (.finish work _)
  | owReset => cases h; exact .inr (.finish (work.setBus (Bus.resetSlot_prefix ..)) _)
  | owWriteBit b => cases h; exact .inr (.finish (work.setBus (List.prefix_append ..)) _)
  | owReadBit => cases h; exact .inr (.finish (work.setBus (List.prefix_append ..)) _)
  | owWriteByte v => cases h; exact .inr (.finish (work.setBus (Bus.writeByte_prefix ..)) _)
  | owReadByte => cases h; exact .inr (.finish (work.setBus (Bus.readSlots_prefix ..)) _)
  | owWriteEnable => cases h; exact .inr (.finish (work.setBus (Bus.writeEnableSeq_prefix ..)) _)
  | owReadId =>
    cases h
    right
    split
    · exact work.readRomRaw.checkIdentity_completes
    · exact .raise work.readRomRaw _
  | owReadRaw =>
    cases h
    right
    split
    · exact .finish work.readRomRaw _
    · exact .raise work.readRomRaw _
  | owCloneWrite =>
    cases h
    have work := work.setBus (Bus.cloneSeq_prefix s.cfg s.regs.idbuf s.bus)
    right
    split
    · exact work.cloneVerify_completes
    · exact .raise work _
  | crcClear => cases h; exact .inr (.finish (work.setCrc _) _)
  | crcUpdate v => cases h; exact .inr (.finish (work.setCrc _) _)
  | crcSeal => cases h; exact .inr (.finish (work.setIdbuf _) _)
  | ksCount => cases h; exact .inr (.finish work _)
  | ksGet n =>
    cases h
    right
    split
    · exact .finish (work.loadRecord _) _
    · exact .raise work _
  | ksInsert => cases h; exact .inr (carryOut_completes fun _ => insertPlan_inTable)
  | ksDelete n => cases h; exact .inr (carryOut_completes fun _ => deletePlan_inTable)
  | ksSetCount n =>
    cases h
    exact .inr (.finish (.writeNvm (setCountPlan_inTable _ _)) _)
  | ksResolve n =>
    cases h
    right
    split
    · exact .finish work _
    · exact .raise work _

/-- The controller's turn: no change, or the end of the running command (R66, R74, R159). -/
theorem State.controllerTurn_cases {s t : State} (h : s.controllerTurn = .next t) : t = s ∨ Completes s t := by
  unfold State.controllerTurn State.runCommand at h
  split at h
  · cases h
    exact .inl rfl
  · split at h
    · exact (exec_cases h).imp_left And.right
    · cases h
      exact .inr (.raise (.refl s) _)

end Sys2Proof.Machine
end

section
/-! PROOFS. What a host access and a reset can do to the block, said once. -/

namespace Sys2Proof.Machine

/-! ## Steps by their input (R152) -/

theorem step_host {s : State} {a : HostAccess} {rest : List Input} (h : s.agenda = .host a :: rest) :
    step s = .next (State.hostAccess { s with agenda := rest } a) := by
  simp [step, State.advance, h]

theorem step_reset {s : State} {cut : Truncation} {rest : List Input} (h : s.agenda = .reset cut :: rest) :
    step s = .next (State.resetEvent { s with agenda := rest } cut) := by
  simp [step, State.advance, h]

/-! ## Bytes stored by a host write (R37) -/

@[simp] theorem Regs.setBytes_cmd (r : Regs) (name : RegName) (k : Nat) (bytes : List Byte) :
    (r.setBytes name k bytes).cmd = r.cmd := by
  induction bytes generalizing r k with
  | nil => rfl
  | cons v rest ih => exact (ih _ _).trans (by cases name <;> rfl)

@[simp] theorem Regs.setBytes_status (r : Regs) (name : RegName) (k : Nat) (bytes : List Byte) :
    (r.setBytes name k bytes).status = r.status := by
  induction bytes generalizing r k with
  | nil => rfl
  | cons v rest ih => exact (ih _ _).trans (by cases name <;> rfl)

@[simp] theorem Regs.setBytes_result (r : Regs) (name : RegName) (k : Nat) (bytes : List Byte) :
    (r.setBytes name k bytes).result = r.result := by
  induction bytes generalizing r k with
  | nil => rfl
  | cons v rest ih => exact (ih _ _).trans (by cases name <;> rfl)

/-! ## Host accesses -/

/-- What a host access can do: nothing, data on the lines (R36, R39), a refusal (R38), the acceptance of a command
while idle (R73), or bytes stored while idle (R37). -/
inductive HostEffect (s : State) : State → Prop where
  | nothing : HostEffect s s
  | deliver (v : Word) : HostEffect s (s.deliver v)
  | deliverFree (v : Word) : HostEffect s (s.deliver v).advanceReads
  | refuseRead (a : HostAccess) : HostEffect s (s.refuseRead a)
  | refuseWrite (a : HostAccess) : HostEffect s (s.hostError a)
  | accept (hidle : s.regs.status.busy = false) (w : Word) : HostEffect s (s.accept w)
  | store (hidle : s.regs.status.busy = false) (name : RegName) (k : Nat) (bytes : List Byte) :
      HostEffect s { s with regs := s.regs.setBytes name k bytes }

/-- A write names a register only while no command runs (R35). -/
theorem not_busy_of_writeTarget {busy : Bool} {off width : Nat} {r : RegSpan}
    (h : writeTarget busy off width = some r) : busy = false := by
  cases busy with
  | false => rfl
  | true => simp [writeTarget_busy] at h

theorem State.hostRead_effect (s : State) (a : HostAccess) (off width : Nat) :
    HostEffect s (s.hostRead a off width) := by
  unfold State.hostRead
  split
  · exact .refuseRead a
  · split
    · exact .deliverFree _
    · exact .deliver _

theorem State.hostWrite_effect (s : State) (a : HostAccess) (off width : Nat) (v : Word) :
    HostEffect s (s.hostWrite a off width v) := by
  unfold State.hostWrite
  split
  · exact .refuseWrite a
  · next hr =>
    split
    · exact .accept (not_busy_of_writeTarget hr) v
    · exact .store (not_busy_of_writeTarget hr) ..
    · exact .refuseWrite a

theorem State.hostAccess_effect (s : State) (a : HostAccess) : HostEffect s (s.hostAccess a) := by
  unfold State.hostAccess
  split
  · split_ifs
    · exact s.hostRead_effect ..
    · exact .refuseRead _
    · exact .nothing
  · split_ifs
    · exact s.hostWrite_effect ..
    · exact .refuseWrite _
    · exact .nothing

/-! ## The reset event (R161 to R163) -/

section
variable (s : State) (cut : Truncation)

@[simp] theorem State.resetEvent_cfg : (s.resetEvent cut).cfg = s.cfg := rfl
@[simp] theorem State.resetEvent_regs : (s.resetEvent cut).regs = Regs.reset := rfl
@[simp] theorem State.resetEvent_seq : (s.resetEvent cut).seq = .idle := rfl
@[simp] theorem State.resetEvent_line : (s.resetEvent cut).bus.line = .released := rfl
@[simp] theorem State.resetEvent_hist :
    (s.resetEvent cut).bus.hist = s.bus.hist ++ cutEvents s.running cut := rfl
@[simp] theorem State.resetEvent_nvm :
    (s.resetEvent cut).nvm = s.nvm.storeAll (tornWrites s.running.writes cut) := rfl
@[simp] theorem State.resetEvent_frec : (s.resetEvent cut).frec = s.frec := rfl
@[simp] theorem State.resetEvent_agenda : (s.resetEvent cut).agenda = s.agenda := rfl
@[simp] theorem State.resetEvent_rdata : (s.resetEvent cut).rdata = s.rdata := rfl
@[simp] theorem State.resetEvent_reads : (s.resetEvent cut).reads = s.reads := rfl

end

@[simp] theorem unbrokenBus_writes (s : State) (o : Host.Outcome State Fault Refusal) :
    (unbrokenBus s o).writes = [] := by
  cases o <;> rfl

/-- A command that could write has the writes of its plan, or none if its checks fail (R163). -/
theorem inTable_unbrokenStore {s : State} {r : Except CmdError StorePlan}
    (h : ∀ plan, r = .ok plan → InTable s.cfg.nslots plan.writes) : InTable s.cfg.nslots (unbrokenStore s r).writes := by
  cases r with
  | ok plan => exact h plan rfl
  | error e => exact inTable_nil _

/-- The commands that write NVM (R79). -/
def writesNvm : Instr → Bool
  | .ksInsert => true
  | .ksDelete _ => true
  | .ksSetCount _ => true
  | _ => false

/-- Only the three storing commands have writes to tear. -/
theorem unbroken_writes_nil {i : Instr} (s : State) (h : writesNvm i = false) : (unbroken i s).writes = [] := by
  cases i with
  | ksInsert | ksDelete | ksSetCount => cases h
  | owReset | owWriteBit | owReadBit | owWriteByte | owReadByte | owWriteEnable | owReadId | owReadRaw | owCloneWrite =>
    exact unbrokenBus_writes ..
  | nop | owEmulatePoll | crcClear | crcUpdate | crcSeal | ksCount | ksGet | ksResolve => rfl

theorem inTable_unbroken (i : Instr) (s : State) : InTable s.cfg.nslots (unbroken i s).writes := by
  cases hw : writesNvm i with
  | false => exact unbroken_writes_nil s hw ▸ inTable_nil _
  | true =>
    cases i with
    | ksInsert => exact inTable_unbrokenStore fun _ => insertPlan_inTable
    | ksDelete n => exact inTable_unbrokenStore fun _ => deletePlan_inTable
    | ksSetCount n => exact setCountPlan_inTable _ n
    | _ => cases hw

theorem State.inTable_running (s : State) : InTable s.cfg.nslots s.running.writes := by
  unfold State.running
  split
  · exact inTable_nil _
  · split
    · exact inTable_unbroken _ s
    · exact inTable_nil _

/-- A torn write goes to an address its plan writes (R163). -/
theorem InTable.tornWrites {nslots : Nat} {cells : List Host.Cell} (h : InTable nslots cells) (cut : Truncation) :
    InTable nslots (tornWrites cells cut) := by
  unfold Machine.tornWrites
  refine InTable.append (fun c hc => h c (List.mem_of_mem_take hc)) ?_
  split
  · exact inTable_nil _
  · next c rest hdrop =>
    have hc : c ∈ cells := List.mem_of_mem_drop (hdrop ▸ List.mem_cons_self)
    intro d hd
    exact List.mem_singleton.1 hd ▸ h c hc

end Sys2Proof.Machine
end

section
/-! PROOFS. The invariants of every step: `State.Consistent` (R19 to R26, R34, R41), and records that only grow (R26,
R27, R149). -/

namespace Sys2Proof.Machine

/-! ## The record of faults and the history only grow -/

/-- What no step takes away: the fault records and bus events so far, and the parameters. -/
structure RecordsKept (s t : State) : Prop where
  frec : s.frec <+: t.frec
  hist : s.bus.hist <+: t.bus.hist
  cfg : t.cfg = s.cfg

theorem RecordsKept.refl (s : State) : RecordsKept s s := ⟨List.prefix_rfl, List.prefix_rfl, rfl⟩

theorem Completes.recordsKept {s t : State} (h : Completes s t) : RecordsKept s t := by
  cases h with
  | finish h v => exact ⟨by simp [h.frec], by simpa using h.hist, h.untouched.cfg⟩
  | raise h e => exact ⟨by simp [h.frec], by simpa using h.hist, h.untouched.cfg⟩

theorem HostEffect.recordsKept {s t : State} (h : HostEffect s t) : RecordsKept s t := by
  cases h with
  | nothing | deliver | deliverFree | accept | store => exact ⟨List.prefix_rfl, List.prefix_rfl, rfl⟩
  | refuseRead | refuseWrite => exact ⟨List.prefix_append .., List.prefix_rfl, rfl⟩

theorem State.resetEvent_recordsKept (s : State) (cut : Truncation) : RecordsKept s (s.resetEvent cut) :=
  ⟨List.prefix_rfl, List.prefix_append .., rfl⟩

theorem State.controllerTurn_recordsKept {s t : State} (h : s.controllerTurn = .next t) : RecordsKept s t := by
  obtain rfl | ht := State.controllerTurn_cases h
  · exact .refl _
  · exact ht.recordsKept

theorem step_recordsKept {s t : State} (h : step s = .next t) : RecordsKept s t := by
  obtain ⟨-, hs⟩ | ⟨rest, -, hs⟩ | ⟨a, rest, -, hs⟩ | ⟨cut, rest, -, hs⟩ := step_cases s <;> rw [hs] at h
  · exact State.controllerTurn_recordsKept h
  · exact { State.controllerTurn_recordsKept h with }
  · cases h
    exact { (State.hostAccess_effect _ a).recordsKept with }
  · cases h
    exact { State.resetEvent_recordsKept { s with agenda := rest } cut with }

/-- Settles O60: each kind of step keeps the records (`step_recordsKept`). -/
theorem recordsOnlyGrow : Obligations.RecordsOnlyGrow := fun _ _ h =>
  have kept := step_recordsKept h
  ⟨kept.frec, kept.hist, kept.cfg⟩

/-! ## Consistent states -/

/-- The table's writes keep the canonical form and the bound of the NVM. -/
theorem State.Consistent.storeAll {s : State} (h : s.Consistent) {cells : List Host.Cell}
    (hc : InTable s.cfg.nslots cells) :
    (s.nvm.storeAll cells).wf = true ∧ InTable s.cfg.nslots (s.nvm.storeAll cells) :=
  ⟨Memory.storeAll_wf h.nvmForm cells, fun c hm => (Memory.mem_storeAll hm).elim (hc c) (h.nvmBound c)⟩

/-- The invariant says nothing of what comes next. -/
theorem State.Consistent.withAgenda {s : State} (h : s.Consistent) (agenda : List Input) :
    State.Consistent { s with agenda := agenda } := { h with }

theorem CmdError.code_mem_reportedCodes (e : CmdError) : e.code ∈ reportedCodes := by
  cases e <;> simp [CmdError.code, reportedCodes]

theorem CmdError.code_ne_zero (e : CmdError) : (e.code != 0#8) = true := by
  cases e <;> rfl

theorem faultEntries_ne_nil {e : CmdError} (w : Word) (h : e.isFault = true) : faultEntries e w ≠ [] := by
  simp [faultEntries, h]

section
variable {s u : State} (h : s.Consistent) (work : Working s u)
include h work

theorem State.Consistent.nvm_of_working : u.nvm.wf = true ∧ InTable u.cfg.nslots u.nvm := by
  obtain ⟨cells, hnvm, hcells⟩ := work.nvm
  rw [hnvm, work.untouched.cfg]
  exact h.storeAll hcells

theorem State.Consistent.finish (v : Half) : (u.finish v).Consistent where
  parameters := by simpa [work.untouched.cfg] using h.parameters
  errCode := rfl
  codeListed := by simp [reportedCodes]
  busySeq := rfl
  cmdSeq := fun w hw => by cases hw
  notBoth := rfl
  hazardFault := by simpa [work.status] using h.hazardFault
  faultLogged := by simpa [work.status, work.frec] using h.faultLogged
  resultHigh := by
    have := v.isLt
    simp only [State.finish_result, BitVec.toNat_setWidth]
    omega
  line := rfl
  nvmForm := (h.nvm_of_working work).1
  nvmBound := (h.nvm_of_working work).2

theorem State.Consistent.raise (e : CmdError) : (u.raise e).Consistent where
  parameters := by simpa [work.untouched.cfg] using h.parameters
  errCode := e.code_ne_zero.symm
  codeListed := e.code_mem_reportedCodes
  busySeq := rfl
  cmdSeq := fun w hw => by cases hw
  notBoth := rfl
  hazardFault := fun hh => by
    have := h.hazardFault (by simpa [work.status] using hh)
    simp [work.status, this]
  faultLogged := fun hf => by
    simp only [State.raise_status, Status.failed_fault, work.status, Bool.or_eq_true] at hf
    simp only [State.raise_frec, work.frec, ne_eq, List.append_eq_nil_iff, not_and]
    exact hf.elim (fun hf hnil => absurd hnil (h.faultLogged hf)) (fun he _ => faultEntries_ne_nil _ he)
  resultHigh := by simp
  line := rfl
  nvmForm := (h.nvm_of_working work).1
  nvmBound := (h.nvm_of_working work).2

end

section
variable {s : State} (h : s.Consistent)
include h

theorem State.Consistent.completes {t : State} (ht : Completes s t) : t.Consistent := by
  cases ht with
  | finish work v => exact h.finish work v
  | raise work e => exact h.raise work e

theorem State.Consistent.controllerTurn {t : State} (ht : s.controllerTurn = .next t) : t.Consistent := by
  obtain rfl | ht := State.controllerTurn_cases ht
  · exact h
  · exact h.completes ht

theorem State.Consistent.hostError (a : HostAccess) : (s.hostError a).Consistent :=
  { h with
    hazardFault := fun _ => rfl
    faultLogged := fun _ => by simp }

theorem State.Consistent.accept (w : Word) : (s.accept w).Consistent :=
  { h with
    errCode := rfl
    codeListed := by simp [reportedCodes]
    busySeq := rfl
    cmdSeq := fun v hv => by cases hv; rfl
    notBoth := rfl
    hazardFault := h.hazardFault
    faultLogged := h.faultLogged }

/-- Registers with `CMD`, `STATUS` and `RESULT` as before are consistent with the rest of the state. -/
theorem State.Consistent.withRegs {r : Regs} (hcmd : r.cmd = s.regs.cmd) (hstatus : r.status = s.regs.status)
    (hresult : r.result = s.regs.result) : State.Consistent { s with regs := r } where
  parameters := h.parameters
  errCode := hstatus ▸ h.errCode
  codeListed := hstatus ▸ h.codeListed
  busySeq := hstatus ▸ h.busySeq
  cmdSeq := hcmd ▸ h.cmdSeq
  notBoth := hstatus ▸ h.notBoth
  hazardFault := hstatus ▸ h.hazardFault
  faultLogged := hstatus ▸ h.faultLogged
  resultHigh := hresult ▸ h.resultHigh
  line := h.line
  nvmForm := h.nvmForm
  nvmBound := h.nvmBound

theorem State.Consistent.hostEffect {t : State} (ht : HostEffect s t) : t.Consistent := by
  cases ht with
  | nothing => exact h
  | deliver v => exact { h with }
  | deliverFree v => exact { h with }
  | refuseRead a => exact { h.hostError a with }
  | refuseWrite a => exact h.hostError a
  | accept _ w => exact h.accept w
  | store _ name k bytes => exact h.withRegs (by simp) (by simp) (by simp)

theorem State.Consistent.resetEvent (cut : Truncation) : (s.resetEvent cut).Consistent :=
  have hnvm := h.storeAll (s.inTable_running.tornWrites cut)
  { parameters := h.parameters
    errCode := rfl
    codeListed := by simp [reportedCodes, Regs.reset, Status.reset]
    busySeq := rfl
    cmdSeq := fun w hw => by cases hw
    notBoth := rfl
    hazardFault := fun hh => by cases hh
    faultLogged := fun hf => by cases hf
    resultHigh := by simp [Regs.reset]
    line := rfl
    nvmForm := hnvm.1
    nvmBound := hnvm.2 }

theorem State.Consistent.step {t : State} (ht : step s = .next t) : t.Consistent := by
  obtain ⟨-, hs⟩ | ⟨rest, -, hs⟩ | ⟨a, rest, -, hs⟩ | ⟨cut, rest, -, hs⟩ := step_cases s <;> rw [hs] at ht
  · exact h.controllerTurn ht
  · exact (h.withAgenda rest).controllerTurn ht
  · cases ht
    exact (h.withAgenda rest).hostEffect (State.hostAccess_effect _ a)
  · cases ht
    exact (h.withAgenda rest).resetEvent cut

end

/-- Settles O59: the controller's turn, a host access and a reset each keep the invariant. -/
theorem consistentKept : Obligations.ConsistentKept := fun _ _ h ht => h.step ht

/-! ## The state after reset -/

/-- The parameters after reset meet R8, R9 and R106 whatever values R8 leaves free (log entry 1). -/
theorem atReset_ok : Config.atReset.ok = true := by
  have hslots := Config.openSlots.isLt
  have hroom : 2 + 41 * (Config.openSlots.val + 1) ≤
      min 65536 (2 + 41 * (Config.openSlots.val + 1) + Config.openNvmSpare) := by omega
  have hlow : Config.atReset.timing.tW1l ≠ Config.atReset.timing.tW0l := by
    simp only [Config.atReset]
    split <;> omega
  simp only [Config.ok, Bool.and_eq_true, decide_eq_true_eq, bne_iff_ne, ne_eq]
  exact ⟨⟨⟨⟨⟨Nat.le_add_left .., hslots⟩, hroom⟩, Nat.min_le_left ..⟩, by decide⟩, hlow⟩

/-- Settles O58: the parameters by `atReset_ok`, everything else by the reset values. -/
theorem consistentAtReset : Obligations.ConsistentAtReset where
  parameters := atReset_ok
  errCode := rfl
  codeListed := by decide
  busySeq := rfl
  cmdSeq := fun w hw => by cases hw
  notBoth := rfl
  hazardFault := fun hh => by cases hh
  faultLogged := fun hf => by cases hf
  resultHigh := by decide
  line := rfl
  nvmForm := rfl
  nvmBound := fun c hc => by cases hc

end Sys2Proof.Machine
end

section
/-! PROOFS. The `STATUS` word (R19) and what a reset leaves (R161). -/

namespace Sys2Proof.Machine

/-! ## The `STATUS` word -/

theorem flagBit_getLsbD (b : Bool) {k : Nat} (hk : k < 32) (j : Nat) :
    (flagBit b k).getLsbD j = (b && decide (j = k)) := by
  cases b with
  | false => simp [flagBit]
  | true =>
    simp only [flagBit, if_true, BitVec.getLsbD_shiftLeft, BitVec.getLsbD_one, Bool.true_and]
    by_cases hj : j = k
    · simp [hj, hk]
    · have : j < k ∨ j - k ≠ 0 := by omega
      rcases this with h | h <;> simp [hj, h]

/-- Every bit of the `STATUS` word (R19). -/
theorem Status.word_getLsbD (t : Status) (k : Nat) :
    t.word.getLsbD k =
      ((t.busy && decide (k = 0)) || (t.done && decide (k = 1)) || (t.err && decide (k = 2)) ||
        (t.fault && decide (k = 3)) || (t.hazard && decide (k = 4)) ||
        (decide (k < 32) && !decide (k < 8) && t.errcode.getLsbD (k - 8))) := by
  simp only [Status.word, BitVec.getLsbD_or, BitVec.getLsbD_shiftLeft, flagBit_getLsbD _ (by decide : 0 < 32),
    flagBit_getLsbD _ (by decide : 1 < 32), flagBit_getLsbD _ (by decide : 2 < 32),
    flagBit_getLsbD _ (by decide : 3 < 32), flagBit_getLsbD _ (by decide : 4 < 32), BitVec.getLsbD_setWidth]
  by_cases hk : k < 32
  · have : k - 8 < 32 := by omega
    simp [hk, this]
  · simp [hk]

theorem Status.word_errcode (t : Status) : t.word.extractLsb' 8 8 = t.errcode := by
  apply BitVec.eq_of_getLsbD_eq
  intro j hj
  have hlow : ¬ (8 + j < 8) := by omega
  have hhigh : 8 + j < 32 := by omega
  have hflags : 8 + j ≠ 0 ∧ 8 + j ≠ 1 ∧ 8 + j ≠ 2 ∧ 8 + j ≠ 3 ∧ 8 + j ≠ 4 := by omega
  rw [BitVec.getLsbD_extractLsb', Status.word_getLsbD]
  simp [hj, hlow, hhigh, hflags]

/-- Bits 7:5 and 31:16 are reserved. -/
theorem Status.word_reserved (t : Status) {k : Nat} (hk : (5 ≤ k ∧ k ≤ 7) ∨ 16 ≤ k) : t.word.getLsbD k = false := by
  have hflags : k ≠ 0 ∧ k ≠ 1 ∧ k ≠ 2 ∧ k ≠ 3 ∧ k ≠ 4 := by omega
  have hcode : k < 8 ∨ t.errcode.getLsbD (k - 8) = false :=
    hk.imp (by omega) fun h => BitVec.getLsbD_of_ge _ _ (by omega)
  rcases hcode with h | h <;> simp [Status.word_getLsbD, hflags, h]

/-- A completion with no fault and no hazard before it reads `DONE`, `ERR` and `FAULT` as its own (R75, R147). -/
theorem Status.word_of_flags {t : Status} (hbusy : t.busy = false) (hdone : t.done = true) (hhazard : t.hazard = false) :
    t.word = (t.errcode.setWidth 32 <<< 8) |||
      (2#32 ||| (if t.err then 4#32 else 0#32) ||| (if t.fault then 8#32 else 0#32)) := by
  rw [BitVec.or_comm]
  simp only [Status.word, hbusy, hdone, hhazard, flagBit]
  cases t.err <;> cases t.fault <;> simp

theorem statusWord_of_finished {s t : State} {v : Half} (h : FinishedWith s t v)
    (hfault : s.regs.status.fault = false) (hhazard : s.regs.status.hazard = false) :
    t.regs.status.word = 0x00000002#32 := by
  rw [Status.word_of_flags h.busy h.done (h.hazard.trans hhazard), h.errcode, h.err, h.fault, hfault]
  rfl

theorem statusWord_of_failed {s t : State} {e : CmdError} (h : FailedWith s t e)
    (hfault : s.regs.status.fault = false) (hhazard : s.regs.status.hazard = false) :
    t.regs.status.word = (e.code.setWidth 32 <<< 8) ||| (if e.isFault then 0x0E#32 else 0x06#32) := by
  rw [Status.word_of_flags h.busy h.done (h.hazard.trans hhazard), h.errcode, h.err, h.fault, hfault]
  cases e.isFault <;> rfl

/-- Settles O9, from the bits of the word (`Status.word_getLsbD`) and the two ways a command completes. -/
theorem statusWordFields : Obligations.StatusWordFields := by
  refine ⟨fun t => ⟨?_, ?_, ?_, ?_, ?_, t.word_errcode, fun k => t.word_reserved⟩,
    fun s t v => statusWord_of_finished, fun s t e => statusWord_of_failed⟩ <;>
  (rw [Status.word_getLsbD]; simp)

/-! ## What a reset leaves -/

theorem Regs.reset_byteOf : ∀ q ∈ registerMap, ∀ k, k < q.size → Regs.reset.byteOf q.name k = 0x00#8 := by decide

theorem Regs.reset_status_word : Regs.reset.status.word = 0#32 := by decide

/-- With no writes to tear the NVM stays as it is. -/
theorem tornWrites_nil (cut : Truncation) : tornWrites [] cut = [] := by
  simp [tornWrites]

/-- Where no command runs there is no slot to cut. -/
theorem cutEvents_nothing (s : State) (cut : Truncation) : cutEvents (unbrokenNothing s) cut = [] := by
  have hevents : (unbrokenNothing s).upTo cut.slots = [] := by simp [Unbroken.upTo, unbrokenNothing]
  rw [cutEvents, hevents]
  simp [unbrokenNothing]

theorem State.running_idle {s : State} (h : s.seq = .idle) : s.running = unbrokenNothing s := by
  simp [State.running, h]

theorem State.running_illegal {s : State} {w : Word} {e : Illegal} (hseq : s.seq = .busy w) (hw : decode w = .error e) :
    s.running = unbrokenNothing s := by
  simp [State.running, hseq, hw]

theorem State.running_command {s : State} {w : Word} {i : Instr} (hseq : s.seq = .busy w) (hw : decode w = .ok i) :
    s.running = unbroken i s := by
  simp [State.running, hseq, hw]

section
variable {s : State} {cut : Truncation}

theorem State.resetEvent_nvm_of_no_writes (h : s.running.writes = []) : (s.resetEvent cut).nvm = s.nvm := by
  simp [h, tornWrites_nil]

/-- A reset where no command runs changes neither NVM nor history. -/
theorem State.resetEvent_nothing (h : s.running = unbrokenNothing s) :
    SameNvm s (s.resetEvent cut) ∧ (s.resetEvent cut).bus.hist = s.bus.hist :=
  ⟨fun a => by rw [State.resetEvent_nvm_of_no_writes (h ▸ rfl)], by simp [h, cutEvents_nothing]⟩

end

/-- A command that stores nothing, or whose checks fail, has no write to tear (R79, R163). -/
theorem unbroken_writes_of_no_store {i : Instr} {s : State}
    (h : (i ≠ .ksInsert ∧ (∀ n, i ≠ .ksDelete n) ∧ (∀ n, i ≠ .ksSetCount n)) ∨
      (i = .ksInsert ∧ ∃ e, insertPlan s.cfg s.regs s.nvm = .error e) ∨
      (∃ n e, i = .ksDelete n ∧ deletePlan s.cfg.nslots s.nvm n = .error e)) : (unbroken i s).writes = [] := by
  obtain ⟨hins, hdel, hset⟩ | ⟨rfl, e, he⟩ | ⟨n, e, rfl, he⟩ := h
  · refine unbroken_writes_nil s ?_
    cases i with
    | ksInsert => exact absurd rfl hins
    | ksDelete n => exact absurd rfl (hdel n)
    | ksSetCount n => exact absurd rfl (hset n)
    | _ => rfl
  · simp [unbroken, he, unbrokenStore, unbrokenNothing]
  · simp [unbroken, he, unbrokenStore, unbrokenNothing]

/-- Settles O56: the reset event field by field, and no writes or slots to cut where none was running. -/
theorem resetClearsRegisters : Obligations.ResetClearsRegisters := by
  intro s cut rest hs
  refine ⟨_, step_reset hs, Regs.reset_byteOf, Regs.reset_status_word, rfl, rfl, rfl, List.prefix_append .., rfl, rfl, rfl,
    rfl, fun h => ?_, fun w e hseq hw => ?_, fun w i hseq hw hno a => ?_⟩
  · exact State.resetEvent_nothing (s := { s with agenda := rest }) (State.running_idle h)
  · exact State.resetEvent_nothing (s := { s with agenda := rest }) (State.running_illegal hseq hw)
  · have hwrites : (State.running { s with agenda := rest }).writes = [] := by
      rw [State.running_command (s := { s with agenda := rest }) hseq hw]
      exact unbroken_writes_of_no_store hno
    rw [State.resetEvent_nvm_of_no_writes hwrites]

end Sys2Proof.Machine
end

section
/-! PROOFS. The register block as the host reaches it: which accesses are legal (R17, R35), and what a legal read, a
legal write and a refused access do (R36 to R38). -/

namespace Sys2Proof.Machine

/-! ## The register map (R17) -/

theorem registerMap_disjoint : ∀ r ∈ registerMap, ∀ q ∈ registerMap,
    r = q ∨ r.first + r.size ≤ q.first ∨ q.first + q.size ≤ r.first := by decide

theorem registerMap_command_iff : ∀ r ∈ registerMap, (r.access = .command ↔ r.name = .cmd) := by decide

/-- A span of bytes lies in at most one register. -/
theorem spanAt_eq_some_iff {off width : Nat} {r : RegSpan} (hw : 0 < width) :
    spanAt off width = some r ↔ r ∈ registerMap ∧ r.first ≤ off ∧ off + width ≤ r.first + r.size := by
  unfold spanAt
  constructor
  · intro h
    have hfit := List.find?_some h
    simp only [Bool.and_eq_true, decide_eq_true_eq] at hfit
    exact ⟨List.mem_of_find?_eq_some h, hfit⟩
  · rintro ⟨hr, hlow, hhigh⟩
    cases hq : registerMap.find? fun r => decide (r.first ≤ off) && decide (off + width ≤ r.first + r.size) with
    | none =>
      have := List.find?_eq_none.1 hq r hr
      simp [hlow, hhigh] at this
    | some q =>
      have hfit := List.find?_some hq
      simp only [Bool.and_eq_true, decide_eq_true_eq] at hfit
      obtain rfl | hlt | hlt := registerMap_disjoint r hr q (List.mem_of_find?_eq_some hq)
      · rfl
      · omega
      · omega

theorem aligned_iff (off width : Nat) :
    aligned off width = true ↔ (width = 1 ∨ width = 2 ∨ width = 4) ∧ off % width = 0 := by
  simp [aligned, or_assoc]

/-- The decision of R35 for reads is `LegalRead`. -/
theorem readTarget_eq_some_iff {off width : Nat} {r : RegSpan} :
    readTarget off width = some r ↔ LegalRead r off width := by
  unfold readTarget
  constructor
  · intro h
    split at h
    · next ha =>
      obtain ⟨hwidth, halign⟩ := (aligned_iff off width).1 ha
      obtain ⟨hr, hlow, hhigh⟩ := (spanAt_eq_some_iff (by omega)).1 h
      exact ⟨hr, hwidth, halign, hlow, hhigh⟩
    · cases h
  · rintro ⟨hr, hwidth, halign, hlow, hhigh⟩
    rw [if_pos ((aligned_iff off width).2 ⟨hwidth, halign⟩)]
    exact (spanAt_eq_some_iff (by omega)).2 ⟨hr, hlow, hhigh⟩

/-- The decision of R35 for writes is `LegalWrite`. -/
theorem writeTarget_eq_some_iff {busy : Bool} {off width : Nat} {r : RegSpan} :
    writeTarget busy off width = some r ↔ LegalWrite busy r off width := by
  constructor
  · intro h
    have hbusy := not_busy_of_writeTarget h
    unfold writeTarget at h
    split at h
    · cases h
    · next q hq =>
      have hread := readTarget_eq_some_iff.1 hq
      have hcmd := registerMap_command_iff q hread.mapped
      rw [hbusy, if_neg (by decide)] at h
      split at h
      · cases h
      · next ha => cases h; exact ⟨hread, .inl ha, hbusy⟩
      · next ha =>
        split at h
        · next hwidth => cases h; exact ⟨hread, .inr ⟨hcmd.1 ha, hwidth⟩, hbusy⟩
        · cases h
  · rintro ⟨hread, haccess, rfl⟩
    have hcmd := registerMap_command_iff r hread.mapped
    unfold writeTarget
    rw [readTarget_eq_some_iff.2 hread]
    obtain ha | ⟨hname, hwidth⟩ := haccess
    · simp [ha]
    · simp [hcmd.2 hname, hwidth]

theorem readTarget_eq_none {off width : Nat} (h : ¬ ∃ r, LegalRead r off width) : readTarget off width = none :=
  Option.eq_none_iff_forall_ne_some.2 fun r hr => h ⟨r, readTarget_eq_some_iff.1 hr⟩

theorem writeTarget_eq_none {busy : Bool} {off width : Nat} (h : ¬ ∃ r, LegalWrite busy r off width) :
    writeTarget busy off width = none :=
  Option.eq_none_iff_forall_ne_some.2 fun r hr => h ⟨r, writeTarget_eq_some_iff.1 hr⟩

/-- A byte of a register is a legal read. -/
theorem legalRead_byte {r : RegSpan} {off : Nat} (hr : r ∈ registerMap) (hlow : r.first ≤ off)
    (hhigh : off < r.first + r.size) : LegalRead r off 1 :=
  ⟨hr, .inl rfl, Nat.mod_one _, hlow, hhigh⟩

/-- The bytes of a legal access lie in its register. -/
theorem LegalRead.fits {r : RegSpan} {off width : Nat} (h : LegalRead r off width) :
    off - r.first + width ≤ r.size := by
  have := h.low
  have := h.high
  omega

/-- The offsets of R17 that hold no register. -/
theorem LegalRead.offset {r : RegSpan} {off width : Nat} (h : LegalRead r off width) :
    ¬ ((0x0D ≤ off ∧ off ≤ 0x0F) ∨ 0x41 ≤ off) := by
  obtain ⟨hr, hwidth, -, hlow, hhigh⟩ := h
  have gaps : ∀ q ∈ registerMap, q.first + q.size ≤ 0x0D ∨ (0x10 ≤ q.first ∧ q.first + q.size ≤ 0x41) := by decide
  have := gaps r hr
  omega

/-- The offsets of R17 that hold no register a host may write, but for the word at 0x00. -/
theorem LegalWrite.offset {busy : Bool} {r : RegSpan} {off width : Nat} (h : LegalWrite busy r off width) :
    ¬ ((0x04 ≤ off ∧ off ≤ 0x0B) ∨ (0x0D ≤ off ∧ off ≤ 0x0F) ∨ (0x18 ≤ off ∧ off ≤ 0x1F) ∨ 0x40 ≤ off ∨
      (off ≤ 0x03 ∧ ¬ (off = 0x00 ∧ width = 4))) := by
  obtain ⟨⟨hr, hwidth, -, hlow, hhigh⟩, haccess, -⟩ := h
  have hspans : ∀ q ∈ registerMap, q.access = .readWrite →
      (q.first = 0x0C ∧ q.size = 1) ∨ (q.first = 0x10 ∧ q.size = 8) ∨ (q.first = 0x20 ∧ q.size = 32) := by decide
  have hcmd : ∀ q ∈ registerMap, q.name = .cmd → q.first = 0x00 ∧ q.size = 4 := by decide
  obtain ha | ⟨hname, rfl⟩ := haccess
  · have := hspans r hr ha
    omega
  · have := hcmd r hr hname
    omega

/-! ## Host accesses at register offsets -/

theorem State.hostAccess_read_at (s : State) (off width : Nat) :
    s.hostAccess (.read (s.cfg.base + off) width) = s.hostRead (.read (s.cfg.base + off) width) off width := by
  simp [State.hostAccess]

theorem State.hostAccess_write_at (s : State) (off width : Nat) (v : Word) :
    s.hostAccess (.write (s.cfg.base + off) width v) = s.hostWrite (.write (s.cfg.base + off) width v) off width v := by
  simp [State.hostAccess]

section
variable {s : State} {off width : Nat} {rest : List Input}

theorem step_read_refused (hs : s.agenda = .host (.read (s.cfg.base + off) width) :: rest)
    (h : ¬ ∃ r, LegalRead r off width) :
    step s = .next (State.refuseRead { s with agenda := rest } (.read (s.cfg.base + off) width)) := by
  rw [step_host hs, State.hostAccess_read_at { s with agenda := rest }, State.hostRead, readTarget_eq_none h]

theorem step_write_refused {v : Word} (hs : s.agenda = .host (.write (s.cfg.base + off) width v) :: rest)
    (h : ¬ ∃ r, LegalWrite s.regs.status.busy r off width) :
    step s = .next (State.hostError { s with agenda := rest } (.write (s.cfg.base + off) width v)) := by
  rw [step_host hs, State.hostAccess_write_at { s with agenda := rest }, State.hostWrite, writeTarget_eq_none h]

/-- A legal read of `STATUS`, or of any register while idle, delivers the register's bytes (R36, R37). -/
theorem step_read_legal {r : RegSpan} (hs : s.agenda = .host (.read (s.cfg.base + off) width) :: rest)
    (h : LegalRead r off width) (hidle : s.regs.status.busy = false ∨ r.name = .status) :
    step s = .next { s with agenda := rest, rdata := s.regs.valueOf r.name (off - r.first) width } := by
  have hdelivers : (s.regs.status.busy && r.name != .status) = false := by
    rcases hidle with h | h <;> simp [h]
  rw [step_host hs, State.hostAccess_read_at { s with agenda := rest }, State.hostRead, readTarget_eq_some_iff.2 h]
  simp [hdelivers, State.deliver]

/-- A legal write to a read/write register stores its bytes (R37). -/
theorem step_write_legal {r : RegSpan} {v : Word} (hs : s.agenda = .host (.write (s.cfg.base + off) width v) :: rest)
    (h : LegalWrite s.regs.status.busy r off width) (hrw : r.access = .readWrite) :
    step s = .next { s with
      agenda := rest, regs := s.regs.setBytes r.name (off - r.first) (leBytes width v.toNat) } := by
  rw [step_host hs, State.hostAccess_write_at { s with agenda := rest }, State.hostWrite, writeTarget_eq_some_iff.2 h]
  simp [hrw]

/-- A read that starts below `BASE` and reaches it is refused (log entry 14). -/
theorem step_read_across {addr : Nat} (hs : s.agenda = .host (.read addr width) :: rest) (hlow : addr < s.cfg.base)
    (hreach : s.cfg.base < addr + width) :
    step s = .next (State.refuseRead { s with agenda := rest } (.read addr width)) := by
  simp [step_host hs, State.hostAccess, hlow, hreach]

/-- A write that starts below `BASE` and reaches it is refused (log entry 14). -/
theorem step_write_across {addr : Nat} {v : Word} (hs : s.agenda = .host (.write addr width v) :: rest)
    (hlow : addr < s.cfg.base) (hreach : s.cfg.base < addr + width) :
    step s = .next (State.hostError { s with agenda := rest } (.write addr width v)) := by
  simp [step_host hs, State.hostAccess, hlow, hreach]

end

/-- Settles O52: an offset the statement lists holds no legal access (`LegalRead.offset`, `LegalWrite.offset`), and
what is not legal is refused. -/
theorem hostErrorRefused : Obligations.HostErrorRefused := by
  refine ⟨fun s off width rest hs h => ?_, fun s off width v rest hs h => ?_,
    fun s addr width rest => step_read_across, fun s addr width v rest => step_write_across⟩
  · refine step_read_refused hs ?_
    obtain h | h := h
    · exact h
    · exact fun ⟨r, hr⟩ => hr.offset h
  · refine step_write_refused hs ?_
    obtain h | h := h
    · exact h
    · exact fun ⟨r, hr⟩ => hr.offset h

/-! ## Little-endian bytes (R36) -/

theorem leNumber_lt (bytes : List Byte) : leNumber bytes < 2 ^ (8 * bytes.length) := by
  induction bytes with
  | nil => simp [leNumber]
  | cons b rest ih =>
    have hb := b.isLt
    have : 2 ^ (8 * (rest.length + 1)) = 256 * 2 ^ (8 * rest.length) := by ring
    simp only [leNumber, List.length_cons]
    omega

/-- Byte `k` of the number is entry `k` of the list. -/
theorem leNumber_byte (bytes : List Byte) (k : Nat) :
    leNumber bytes / 256 ^ k % 256 = (bytes.getD k 0#8).toNat := by
  induction bytes generalizing k with
  | nil => simp [leNumber]
  | cons b rest ih =>
    have hb := b.isLt
    cases k with
    | zero => simp only [leNumber, pow_zero, Nat.div_one, List.getD_cons_zero]; omega
    | succ k =>
      have hdiv : leNumber (b :: rest) / 256 = leNumber rest := by simp only [leNumber]; omega
      rw [pow_succ', ← Nat.div_div_eq_div_mul, hdiv, ih, List.getD_cons_succ]

theorem leBytes_getD (n v k : Nat) (hk : k < n) : (leBytes n v).getD k 0#8 = BitVec.ofNat 8 (v / 256 ^ k) := by
  induction n generalizing v k with
  | zero => omega
  | succ n ih =>
    cases k with
    | zero => simp [leBytes]
    | succ k =>
      rw [leBytes, List.getD_cons_succ, ih _ _ (by omega), Nat.div_div_eq_div_mul, pow_succ']

/-- Byte `k` of a word, as a number. -/
theorem wordByte_toNat (w : Word) (k : Nat) : (w.extractLsb' (8 * k) 8).toNat = w.toNat / 256 ^ k % 256 := by
  rw [BitVec.extractLsb'_toNat, Nat.shiftRight_eq_div_pow, pow_mul]
  rfl

/-- A word from up to four bytes has those bytes. -/
theorem ofNat_leNumber_byte {bytes : List Byte} (hlen : bytes.length ≤ 4) (k : Nat) :
    (BitVec.ofNat 32 (leNumber bytes)).extractLsb' (8 * k) 8 = bytes.getD k 0#8 := by
  have hlt : leNumber bytes < 2 ^ 32 :=
    (leNumber_lt bytes).trans_le (Nat.pow_le_pow_right (by decide) (by omega))
  apply BitVec.eq_of_toNat_eq
  rw [wordByte_toNat, BitVec.toNat_ofNat, Nat.mod_eq_of_lt hlt, leNumber_byte]

@[simp] theorem Regs.bytesOf_length (r : Regs) (name : RegName) (k n : Nat) : (r.bytesOf name k n).length = n := by
  induction n generalizing k with
  | zero => rfl
  | succ n ih => simp [Regs.bytesOf, ih]

theorem Regs.bytesOf_getD (r : Regs) (name : RegName) {k n j : Nat} (hj : j < n) :
    (r.bytesOf name k n).getD j 0#8 = r.byteOf name (k + j) := by
  induction n generalizing k j with
  | zero => omega
  | succ n ih =>
    cases j with
    | zero => rfl
    | succ j =>
      rw [Regs.bytesOf, List.getD_cons_succ, ih (by omega)]
      congr 1
      omega

section
variable (r : Regs) (name : RegName) (k : Nat)

/-- The bytes of the value a read gives (R36). -/
theorem Regs.valueOf_byte {width j : Nat} (hwidth : width ≤ 4) (hj : j < width) :
    (r.valueOf name k width).extractLsb' (8 * j) 8 = r.byteOf name (k + j) := by
  rw [Regs.valueOf, ofNat_leNumber_byte (by simpa using hwidth), Regs.bytesOf_getD _ _ hj]

theorem Regs.valueOf_lt (width : Nat) : (r.valueOf name k width).toNat < 2 ^ (8 * width) := by
  have := leNumber_lt (r.bytesOf name k width)
  rw [Regs.bytesOf_length] at this
  exact (Nat.mod_le _ _).trans_lt this

/-- A one-byte read gives the byte, zero-extended. -/
theorem Regs.valueOf_one : r.valueOf name k 1 = (r.byteOf name k).setWidth 32 := by
  simp [Regs.valueOf, Regs.bytesOf, leNumber]

end

/-- Two words with the same four bytes are equal. -/
theorem word_ext {v w : Word} (h : ∀ k, k < 4 → v.extractLsb' (8 * k) 8 = wordByte w k) : v = w := by
  apply BitVec.eq_of_getLsbD_eq
  intro j hj
  have hbit := congrArg (fun b : Byte => b.getLsbD (j % 8)) (h (j / 8) (by omega))
  have hj' : 8 * (j / 8) + j % 8 = j := by omega
  have hlt : j % 8 < 8 := by omega
  simpa [wordByte, hlt, hj'] using hbit

/-- A four-byte read of a word register gives the word. -/
theorem Regs.valueOf_word {r : Regs} {name : RegName} {w : Word} (h : ∀ k, r.byteOf name k = wordByte w k) :
    r.valueOf name 0 4 = w :=
  word_ext fun k hk => by rw [Regs.valueOf_byte r name 0 (le_refl 4) hk, Nat.zero_add, h]

section
variable {s : State} {rest : List Input}

/-- All four bytes of a word register read while idle. -/
theorem step_read_word {r : RegSpan} {w : Word} (hs : s.agenda = .host (.read (s.cfg.base + r.first) 4) :: rest)
    (hidle : s.regs.status.busy = false) (hr : LegalRead r r.first 4) (hw : ∀ k, s.regs.byteOf r.name k = wordByte w k) :
    step s = .next { s with agenda := rest, rdata := w } := by
  rw [step_read_legal hs hr (.inl hidle), Nat.sub_self, Regs.valueOf_word hw]

/-- Byte `j` of a register read while idle. -/
theorem step_read_byte {r : RegSpan} {j : Nat} {v : Byte}
    (hs : s.agenda = .host (.read (s.cfg.base + (r.first + j)) 1) :: rest) (hidle : s.regs.status.busy = false)
    (hr : r ∈ registerMap) (hj : j < r.size) (hv : s.regs.byteOf r.name j = v) :
    step s = .next { s with agenda := rest, rdata := v.setWidth 32 } := by
  rw [step_read_legal hs (legalRead_byte hr (by omega) (by omega)) (.inl hidle), Nat.add_sub_cancel_left,
    Regs.valueOf_one, hv]

end

/-- Settles O53: a legal read delivers `Regs.valueOf`, whose bytes are the register's. -/
theorem registerReads : Obligations.RegisterReads := by
  refine ⟨fun s r off width rest hs hr hidle => ⟨_, step_read_legal hs hr hidle, fun k hk => ?_, ?_⟩,
    fun s off width rest hs hidle => ⟨?_, ?_, ?_, ?_, ?_, ?_, ?_, ?_⟩⟩
  · have hwidth : width ≤ 4 := by have := hr.widthOk; omega
    exact Regs.valueOf_byte _ _ _ hwidth hk
  · exact Regs.valueOf_lt ..
  · rintro rfl rfl
    exact step_read_word (r := ⟨.cmd, 0x00, 4, .command⟩) hs hidle (by constructor <;> decide) fun _ => rfl
  · rintro rfl rfl
    exact step_read_word (r := ⟨.status, 0x04, 4, .readOnly⟩) hs hidle (by constructor <;> decide) fun _ => rfl
  · rintro rfl rfl
    exact step_read_word (r := ⟨.result, 0x08, 4, .readOnly⟩) hs hidle (by constructor <;> decide) fun _ => rfl
  · rintro rfl rfl
    exact step_read_byte (r := ⟨.keyType, 0x0C, 1, .readWrite⟩) (j := 0) hs hidle (by decide) (by decide) rfl
  · rintro rfl rfl
    exact step_read_byte (r := ⟨.crc, 0x40, 1, .readOnly⟩) (j := 0) hs hidle (by decide) (by decide) rfl
  · rintro j hj rfl rfl
    exact step_read_byte (r := ⟨.idbuf, 0x10, 8, .readWrite⟩) hs hidle (by decide) hj (by simp [Regs.byteOf, hj])
  · rintro j hj rfl rfl
    exact step_read_byte (r := ⟨.rbbuf, 0x18, 8, .readOnly⟩) hs hidle (by decide) hj (by simp [Regs.byteOf, hj])
  · rintro k hk rfl rfl
    exact step_read_byte (r := ⟨.namebuf, 0x20, 32, .readWrite⟩) hs hidle (by decide) hk (by simp [Regs.byteOf, hk])

/-! ## Stored bytes (R37) -/

/-- A stored byte leaves every other register alone. -/
theorem Regs.byteOf_setByte_of_ne (r : Regs) {name m : RegName} (h : m ≠ name) (k j : Nat) (v : Byte) :
    (r.setByte name k v).byteOf m j = r.byteOf m j := by
  cases name with
  | keyType | idbuf | namebuf => cases m <;> simp [Regs.setByte, Regs.byteOf] at h ⊢
  | cmd | status | result | rbbuf | crc => rfl

theorem readWrite_registers : ∀ p ∈ registerMap, p.access = .readWrite →
    (p.name = .keyType ∧ p.size = 1) ∨ (p.name = .idbuf ∧ p.size = 8) ∨ (p.name = .namebuf ∧ p.size = 32) := by
  decide

section
variable {p : RegSpan} (hp : p ∈ registerMap) (hrw : p.access = .readWrite)
include hp hrw

/-- A stored byte inside its register: itself, and the register's other bytes. -/
theorem Regs.byteOf_setByte (r : Regs) {k j : Nat} (hk : k < p.size) (hj : j < p.size) (v : Byte) :
    (r.setByte p.name k v).byteOf p.name j = if k = j then v else r.byteOf p.name j := by
  obtain ⟨hname, hsize⟩ | ⟨hname, hsize⟩ | ⟨hname, hsize⟩ := readWrite_registers p hp hrw <;>
    rw [hsize] at hk hj
  · have hkj : k = j := by omega
    simp [hname, Regs.setByte, Regs.byteOf, hkj]
  · simp only [hname, Regs.setByte, Regs.byteOf]
    by_cases hkj : k = j <;> simp [hkj, hj]
  · simp only [hname, Regs.setByte, Regs.byteOf]
    by_cases hkj : k = j <;> simp [hkj, hj]

/-- Bytes stored from byte `k` on leave every byte outside their range alone, in every register. -/
theorem Regs.byteOf_setBytes_outside (r : Regs) {q : RegSpan} (hq : q ∈ registerMap) (bytes : List Byte) {k j : Nat}
    (hk : k + bytes.length ≤ p.size) (hj : j < q.size)
    (hout : ¬ (q.name = p.name ∧ k ≤ j ∧ j < k + bytes.length)) :
    (r.setBytes p.name k bytes).byteOf q.name j = r.byteOf q.name j := by
  induction bytes generalizing r k with
  | nil => rfl
  | cons v rest ih =>
    simp only [List.length_cons] at hk hout
    rw [Regs.setBytes, ih _ (by omega) (fun ⟨hn, h1, h2⟩ => hout ⟨hn, by omega, by omega⟩)]
    by_cases hn : q.name = p.name
    · have hsize : q.size = p.size := by
        have hnames : ∀ a ∈ registerMap, ∀ b ∈ registerMap, a.name = b.name → a.size = b.size := by decide
        exact hnames q hq p hp hn
      have hkj : k ≠ j := fun h => hout ⟨hn, by omega, by omega⟩
      rw [hn, Regs.byteOf_setByte hp hrw r (by omega) (hsize ▸ hj), if_neg hkj]
    · exact Regs.byteOf_setByte_of_ne r hn k j v

/-- Bytes stored from byte `k` on stand at byte `k` on. -/
theorem Regs.byteOf_setBytes_inside (r : Regs) (bytes : List Byte) {k j : Nat} (hk : k + bytes.length ≤ p.size)
    (hj : j < bytes.length) : (r.setBytes p.name k bytes).byteOf p.name (k + j) = bytes.getD j 0#8 := by
  induction bytes generalizing r k j with
  | nil => cases hj
  | cons v rest ih =>
    simp only [List.length_cons] at hk hj
    cases j with
    | zero =>
      rw [Nat.add_zero, Regs.setBytes, Regs.byteOf_setBytes_outside hp hrw _ hp rest (by omega) (by omega) (by omega),
        Regs.byteOf_setByte hp hrw r (by omega) (by omega), if_pos rfl, List.getD_cons_zero]
    | succ j =>
      have hshift : k + (j + 1) = k + 1 + j := by omega
      rw [Regs.setBytes, hshift, ih _ (by omega) (by omega), List.getD_cons_succ]

end

/-- Byte `k` of what a write stores (R36). -/
theorem leBytes_word_getD (v : Word) {n k : Nat} (hk : k < n) :
    (leBytes n v.toNat).getD k 0#8 = v.extractLsb' (8 * k) 8 := by
  apply BitVec.eq_of_toNat_eq
  rw [leBytes_getD _ _ _ hk, wordByte_toNat, BitVec.toNat_ofNat]

/-- A one-byte write stores the low byte of its value. -/
theorem Regs.setBytes_one (r : Regs) (name : RegName) (k : Nat) (v : Word) :
    r.setBytes name k (leBytes 1 v.toNat) = r.setByte name k (v.extractLsb' 0 8) := by
  have hbyte : BitVec.ofNat 8 v.toNat = v.extractLsb' 0 8 := leBytes_word_getD v (n := 1) (k := 0) (by decide)
  rw [← hbyte]
  rfl

/-- An in-range `set!` is `set`. -/
theorem set!_eq_set {n j : Nat} {xs : Vector Byte n} (hj : j < n) (v : Byte) : xs.set! j v = xs.set j v := by
  ext i hi
  rw [Vector.getElem_set]
  by_cases hij : j = i <;> simp [hij]

theorem Regs.setByte_idbuf (r : Regs) {j : Nat} (hj : j < 8) (v : Byte) :
    r.setByte .idbuf j v = { r with idbuf := r.idbuf.set j v } := by
  rw [Regs.setByte, set!_eq_set hj]

theorem Regs.setByte_namebuf (r : Regs) {k : Nat} (hk : k < 32) (v : Byte) :
    r.setByte .namebuf k v = { r with namebuf := r.namebuf.set k v } := by
  rw [Regs.setByte, set!_eq_set hk]

/-- A byte written while idle to byte `j` of a read/write register. -/
theorem step_write_byte {s : State} {rest : List Input} {r : RegSpan} {j : Nat} {v : Word}
    (hs : s.agenda = .host (.write (s.cfg.base + (r.first + j)) 1 v) :: rest) (hidle : s.regs.status.busy = false)
    (hr : r ∈ registerMap) (hrw : r.access = .readWrite) (hj : j < r.size) :
    step s = .next { s with agenda := rest, regs := s.regs.setByte r.name j (v.extractLsb' 0 8) } := by
  rw [step_write_legal hs ⟨legalRead_byte hr (by omega) (by omega), .inl hrw, hidle⟩ hrw, Nat.add_sub_cancel_left,
    Regs.setBytes_one]

/-- Settles O55: a legal write stores `leBytes` in its register (`step_write_legal`), inside its range and nowhere
else. -/
theorem registerWrites : Obligations.RegisterWrites := by
  refine ⟨fun s r off width v rest hs hr hrw => ⟨_, step_write_legal hs hr hrw, rfl, fun k hk => ?_,
    fun q hq k hk hout => ?_, by simp⟩, fun s off v rest hs hidle => ⟨?_, ?_, ?_⟩⟩
  · have hstored := Regs.byteOf_setBytes_inside hr.span.mapped hrw s.regs (leBytes width v.toNat)
      (by simpa using hr.span.fits) (by simpa using hk)
    exact hstored.trans (leBytes_word_getD v hk)
  · exact Regs.byteOf_setBytes_outside hr.span.mapped hrw _ hq _ (by simpa using hr.span.fits) hk (by simpa using hout)
  · rintro rfl
    exact step_write_byte (r := ⟨.keyType, 0x0C, 1, .readWrite⟩) (j := 0) hs hidle (by decide) rfl (by decide)
  · rintro j hj rfl
    rw [step_write_byte (r := ⟨.idbuf, 0x10, 8, .readWrite⟩) hs hidle (by decide) rfl hj, Regs.setByte_idbuf _ hj]
  · rintro k hk rfl
    rw [step_write_byte (r := ⟨.namebuf, 0x20, 32, .readWrite⟩) hs hidle (by decide) rfl hk,
      Regs.setByte_namebuf _ hk]

end Sys2Proof.Machine
end

section
/-! PROOFS. The marker functions (R46), the reads of a busy block (R39), and the slot table: its runs, the walk over
them, and what the writes of a plan do to its markers (R40 to R47). -/

namespace Sys2Proof.Machine

/-! ## Marker functions (R46) -/

theorem runlen_eq_mod (m : Byte) : runlen m = m.toNat % 128 := by
  rw [runlen, BitVec.toNat_and]
  exact Nat.and_two_pow_sub_one_eq_mod m.toNat 7

@[simp] theorem isTomb_marker (l : Nat) : isTomb (marker l) = true := by
  simp [isTomb, marker]

theorem runlen_marker {l : Nat} (h : l ≤ 127) : runlen (marker l) = l := by
  have hlow : marker l &&& 0x7F#8 = BitVec.ofNat 8 l &&& 0x7F#8 := by
    rw [marker, BitVec.and_comm, BitVec.and_or_distrib_left, BitVec.and_comm (BitVec.ofNat 8 l)]
    exact BitVec.zero_or
  calc runlen (marker l)
    _ = runlen (BitVec.ofNat 8 l) := congrArg BitVec.toNat hlow
    _ = l := by rw [runlen_eq_mod, BitVec.toNat_ofNat]; omega

theorem isTomb_ofNat {t : Nat} (h : t ≤ 127) : isTomb (BitVec.ofNat 8 t) = false := by
  have hbit : t.testBit 7 = false := Nat.testBit_lt_two_pow (by omega)
  rw [isTomb, BitVec.getLsbD_ofNat, hbit, Bool.and_false]

/-- Settles O36: `is_tomb` is bit 7 and `runlen` the number in the bits below it. -/
theorem markerFunctions : Obligations.MarkerFunctions :=
  ⟨fun m => ⟨rfl, runlen_eq_mod m⟩, fun l _ hl => ⟨rfl, isTomb_marker l, runlen_marker hl⟩, fun _ => isTomb_ofNat⟩

/-! ## Reads of a busy block (R39) -/

/-- A legal read of a register other than `STATUS` while busy delivers a free value and counts it. -/
theorem step_read_busy {s : State} {r : RegSpan} {off width : Nat} {rest : List Input}
    (hs : s.agenda = .host (.read (s.cfg.base + off) width) :: rest) (hr : LegalRead r off width)
    (hbusy : s.regs.status.busy = true) (hname : r.name ≠ .status) :
    step s = .next (State.deliver { s with agenda := rest } (freeReadValue s width)).advanceReads := by
  rw [step_host hs, State.hostAccess_read_at { s with agenda := rest }, State.hostRead, readTarget_eq_some_iff.2 hr]
  simp [hbusy, hname, freeReadValue]

theorem legalRead_status : LegalRead ⟨.status, 0x04, 4, .readOnly⟩ 4 4 := by constructor <;> decide

/-- Settles O54: `step_read_busy` for the other registers; `STATUS` reads as it does while idle
(`step_read_legal`). -/
theorem busyReads : Obligations.BusyReads := by
  refine ⟨fun s r off width rest hs hr hbusy hname =>
    ⟨_, step_read_busy hs hr hbusy hname, rfl, rfl, rfl, rfl, rfl, rfl, rfl, rfl⟩, fun s rest hs hbusy => ⟨?_, ?_⟩⟩
  · have hword : s.regs.valueOf .status 0 4 = s.regs.status.word := Regs.valueOf_word fun _ => rfl
    rw [step_read_legal hs legalRead_status (.inr rfl), ← hword]
    rfl
  · simp [Status.word_getLsbD, hbusy]

/-! ## Counting live slots (R86) -/

theorem tomb_congr {m m' : Memory} {q q' : Nat} (h : markerAt m' q' = markerAt m q) : Tomb m' q' ↔ Tomb m q := by
  rw [Tomb, Tomb, h]

theorem tomb_of_marker {m : Memory} {q l : Nat} (h : markerAt m q = marker l) : Tomb m q := by
  rw [Tomb, h, isTomb_marker]

section
variable {m : Memory}

theorem logicalOf_succ_of_tomb {p : Nat} (h : Tomb m p) : logicalOf m (p + 1) = logicalOf m p := by
  rw [Tomb] at h
  rw [logicalOf, if_pos h, Nat.add_zero]

theorem logicalOf_succ_of_live {p : Nat} (h : ¬ Tomb m p) : logicalOf m (p + 1) = logicalOf m p + 1 := by
  rw [Tomb] at h
  rw [logicalOf, if_neg h]

theorem logicalOf_mono {a b : Nat} (h : a ≤ b) : logicalOf m a ≤ logicalOf m b := by
  induction b, h using Nat.le_induction with
  | base => exact le_rfl
  | succ b _ ih => exact ih.trans (Nat.le_add_right _ _)

theorem logicalOf_lt {a b : Nat} (h : a < b) (ha : ¬ Tomb m a) : logicalOf m a < logicalOf m b := by
  have := logicalOf_succ_of_live ha
  have := logicalOf_mono (m := m) (a := a + 1) h
  omega

theorem logicalOf_le (p : Nat) : logicalOf m p ≤ p := by
  induction p with
  | zero => exact le_rfl
  | succ p ih =>
    rw [logicalOf]
    split <;> omega

/-- A run has no live slots. -/
theorem logicalOf_of_tombs {a b : Nat} (hab : a ≤ b) (h : ∀ q, a ≤ q → q < b → Tomb m q) :
    logicalOf m b = logicalOf m a := by
  induction b, hab using Nat.le_induction with
  | base => rfl
  | succ b hb ih =>
    rw [logicalOf_succ_of_tomb (h b hb (Nat.lt_succ_self b)), ih fun q h1 h2 => h q h1 (h2.trans (Nat.lt_succ_self b))]

/-- Below `le` there is a live slot of each index. -/
theorem exists_live_of_lt_logicalOf {i le : Nat} (h : i < logicalOf m le) :
    ∃ p, p < le ∧ ¬ Tomb m p ∧ logicalOf m p = i := by
  induction le with
  | zero => cases h
  | succ le ih =>
    by_cases hle : i < logicalOf m le
    · obtain ⟨p, hp, hlive⟩ := ih hle
      exact ⟨p, hp.trans (Nat.lt_succ_self le), hlive⟩
    · by_cases ht : Tomb m le
      · rw [logicalOf_succ_of_tomb ht] at h
        exact absurd h hle
      · rw [logicalOf_succ_of_live ht] at h
        exact ⟨le, Nat.lt_succ_self le, ht, by omega⟩

theorem logicalOf_congr {m' : Memory} {le : Nat} (h : ∀ q, q < le → (Tomb m' q ↔ Tomb m q)) :
    logicalOf m' le = logicalOf m le := by
  induction le with
  | zero => rfl
  | succ le ih =>
    have ih := ih fun q hq => h q (hq.trans (Nat.lt_succ_self le))
    have hle := h le (Nat.lt_succ_self le)
    by_cases ht : Tomb m le
    · rw [logicalOf_succ_of_tomb ht, logicalOf_succ_of_tomb (hle.2 ht), ih]
    · rw [logicalOf_succ_of_live ht, logicalOf_succ_of_live (mt hle.1 ht), ih]

/-- A slot below `le` that is live in `m'` and not in `m` makes one live slot more. -/
theorem logicalOf_of_slot_live {m' : Memory} {p le : Nat} (hp : p < le) (hlive : ¬ Tomb m' p) (htomb : Tomb m p)
    (hother : ∀ q, q < le → q ≠ p → (Tomb m' q ↔ Tomb m q)) : logicalOf m' le = logicalOf m le + 1 := by
  induction le, hp using Nat.le_induction with
  | base =>
    rw [logicalOf_succ_of_live hlive, logicalOf_succ_of_tomb htomb,
      logicalOf_congr fun q hq => hother q (hq.trans (Nat.lt_succ_self p)) hq.ne]
  | succ le hp ih =>
    have ih := ih fun q hq => hother q (hq.trans (Nat.lt_succ_self le))
    have hle := hother le (Nat.lt_succ_self le) (by omega)
    by_cases ht : Tomb m le
    · rw [logicalOf_succ_of_tomb ht, logicalOf_succ_of_tomb (hle.2 ht), ih]
    · rw [logicalOf_succ_of_live ht, logicalOf_succ_of_live (mt hle.1 ht), ih]

end

/-! ## Runs (R47) -/

/-- The slots `a .. b - 1` are a maximal span of tombstoned slots below `le`, or there is no such slot at `a`. -/
structure Run (m : Memory) (le a b : Nat) : Prop where
  ordered : a ≤ b
  inside : b ≤ le
  tombs : ∀ q, a ≤ q → q < b → Tomb m q
  left : a = 0 ∨ ¬ Tomb m (a - 1)
  right : b = le ∨ ¬ Tomb m b

/-- Every maximal span below `le` carries its length at both ends (item 4 of R47). -/
def RunsMarked (m : Memory) (le : Nat) : Prop :=
  ∀ h t, IsSpan m le h t →
    markerAt m h = marker (t - h + 1) ∧ markerAt m t = marker (t - h + 1) ∧ t - h + 1 ≤ 127

section
variable {m : Memory} {le : Nat}

theorem Run.isSpan {a b : Nat} (h : Run m le a b) (hab : a < b) : IsSpan m le a (b - 1) where
  ordered := by omega
  inside := by have := h.inside; omega
  tombs := fun q h1 h2 => h.tombs q h1 (by omega)
  leftEdge := h.left
  rightEdge := by rw [Nat.sub_add_cancel (by omega)]; exact h.right

/-- Downward from `b`, tombstoned slots end at slot 0 or above a live slot. -/
theorem exists_tombs_before (b : Nat) :
    ∃ a, a ≤ b ∧ (∀ q, a ≤ q → q < b → Tomb m q) ∧ (a = 0 ∨ ¬ Tomb m (a - 1)) := by
  induction b with
  | zero => exact ⟨0, le_rfl, fun q _ hq => by omega, .inl rfl⟩
  | succ b ih =>
    by_cases ht : Tomb m b
    · obtain ⟨a, hab, htombs, hleft⟩ := ih
      refine ⟨a, by omega, fun q h1 h2 => ?_, hleft⟩
      obtain rfl | hq := eq_or_ne q b
      · exact ht
      · exact htombs q h1 (by omega)
    · exact ⟨b + 1, le_rfl, fun q h1 h2 => by omega, .inr ht⟩

/-- Upward from `a`, `n` slots below `le`, tombstoned slots end at `le` or below a live slot. -/
theorem exists_tombs_from (n a : Nat) (h : a + n = le) :
    ∃ b, a ≤ b ∧ b ≤ le ∧ (∀ q, a ≤ q → q < b → Tomb m q) ∧ (b = le ∨ ¬ Tomb m b) := by
  induction n generalizing a with
  | zero => exact ⟨a, le_rfl, by omega, fun q h1 h2 => by omega, .inl (by omega)⟩
  | succ n ih =>
    by_cases ht : Tomb m a
    · obtain ⟨b, hab, hble, htombs, hright⟩ := ih (a + 1) (by omega)
      refine ⟨b, by omega, hble, fun q h1 h2 => ?_, hright⟩
      obtain rfl | hq := eq_or_ne q a
      · exact ht
      · exact htombs q (by omega) h2
    · exact ⟨a, le_rfl, by omega, fun q h1 h2 => by omega, .inr ht⟩

/-- The run that ends below `b`. -/
theorem exists_run_before {b : Nat} (hb : b ≤ le) (right : b = le ∨ ¬ Tomb m b) : ∃ a, Run m le a b := by
  obtain ⟨a, hab, htombs, hleft⟩ := exists_tombs_before (m := m) b
  exact ⟨a, hab, hb, htombs, hleft, right⟩

/-- The run that begins at `a`. -/
theorem exists_run_from {a : Nat} (ha : a ≤ le) (left : a = 0 ∨ ¬ Tomb m (a - 1)) : ∃ b, Run m le a b := by
  obtain ⟨b, hab, hble, htombs, hright⟩ := exists_tombs_from (m := m) (le - a) a (Nat.add_sub_cancel' ha)
  exact ⟨b, hab, hble, htombs, left, hright⟩

/-- A run that begins at a tombstoned slot is not empty. -/
theorem Run.nonempty {a b : Nat} (h : Run m le a b) (ha : a < le) (ht : Tomb m a) : a < b := by
  obtain hb | hb := h.right
  · omega
  · exact lt_of_le_of_ne h.ordered fun hab => hb (hab ▸ ht)

theorem RunsMarked.runlen {a b : Nat} (runs : RunsMarked m le) (h : Run m le a b) (hab : a < b) :
    runlen (markerAt m a) = b - a ∧ runlen (markerAt m (b - 1)) = b - a := by
  obtain ⟨hhead, htail, hshort⟩ := runs a (b - 1) (h.isSpan hab)
  have hlen : b - 1 - a + 1 = b - a := by omega
  rw [hlen] at hhead htail hshort
  rw [hhead, htail, runlen_marker hshort]
  exact ⟨rfl, rfl⟩

/-- The runs below a live slot, or below slot 0, do not depend on what lies above. -/
theorem RunsMarked.below (runs : RunsMarked m le) {e : Nat} (he : e ≤ le) (hlast : e = 0 ∨ ¬ Tomb m (e - 1)) :
    RunsMarked m e := by
  intro h t span
  have hinside := span.inside
  have hlast : ¬ Tomb m (e - 1) := hlast.resolve_left (by omega)
  have ht : t + 1 ≠ e := fun heq => by
    rw [← heq, Nat.add_sub_cancel] at hlast
    exact hlast (span.tombs t span.ordered le_rfl)
  exact runs h t { span with
    inside := by omega
    rightEdge := .inr (span.rightEdge.resolve_left ht) }

end

/-! ## The walk on a table with marked runs (R81, R83) -/

section
variable {m : Memory} {nslots i p : Nat} (hp : p < nslots) (n k : Nat)
include hp

theorem resolveFrom_skip (ht : Tomb m p) (hrun : runlen (markerAt m p) ≠ 0) :
    resolveFrom m nslots i (n + 1) p k = resolveFrom m nslots i n (p + runlen (markerAt m p)) k := by
  rw [Tomb] at ht
  rw [resolveFrom, if_neg hp.not_ge, if_pos ht, if_neg hrun]

theorem resolveFrom_count (ht : ¬ Tomb m p) (hk : k ≠ i) :
    resolveFrom m nslots i (n + 1) p k = resolveFrom m nslots i n (p + 1) (k + 1) := by
  rw [Tomb] at ht
  rw [resolveFrom, if_neg hp.not_ge, if_neg ht, if_neg hk]

theorem resolveFrom_found (ht : ¬ Tomb m p) : resolveFrom m nslots i (n + 1) p i = .ok p := by
  rw [Tomb] at ht
  rw [resolveFrom, if_neg hp.not_ge, if_neg ht, if_pos rfl]

end

/-- The walk, from the start of a run or from a live slot on, comes to the live slot `p`. -/
theorem resolveFrom_of_runsMarked {m : Memory} {nslots le p : Nat} (runs : RunsMarked m le) (hle : le ≤ nslots)
    (hp : p < le) (hlive : ¬ Tomb m p) (n a : Nat) (hn : p < n + a) (ha : a ≤ p)
    (hleft : Tomb m a → a = 0 ∨ ¬ Tomb m (a - 1)) :
    resolveFrom m nslots (logicalOf m p) n a (logicalOf m a) = .ok p := by
  induction n generalizing a with
  | zero => omega
  | succ n ih =>
    have hin : a < nslots := by omega
    by_cases ht : Tomb m a
    · obtain ⟨b, run⟩ := exists_run_from (m := m) (le := le) (by omega) (hleft ht)
      have hab := run.nonempty (by omega) ht
      have hbp : b ≤ p := not_lt.1 fun hpb => hlive (run.tombs p ha hpb)
      have hlen := (runs.runlen run hab).1
      have hnext : a + runlen (markerAt m a) = b := by omega
      have hb : ¬ Tomb m b := run.right.resolve_left (by omega)
      rw [resolveFrom_skip hin _ _ ht (by omega), hnext, ← logicalOf_of_tombs run.ordered run.tombs]
      exact ih b (by omega) hbp fun h => absurd h hb
    · obtain rfl | hap := eq_or_ne a p
      · exact resolveFrom_found hin _ ht
      · have hap : a < p := by omega
        rw [resolveFrom_count hin _ _ ht (logicalOf_lt hap ht).ne, ← logicalOf_succ_of_live ht]
        exact ih (a + 1) (by omega) hap fun _ => .inr ht

/-- `resolve` inverts `logical_of` on the live slots of a table with marked runs (R86). -/
theorem resolve_logicalOf {m : Memory} {nslots le p : Nat} (runs : RunsMarked m le) (hle : le ≤ nslots)
    (hp : p < le) (hlive : ¬ Tomb m p) : resolve m nslots (logicalOf m p) = .ok p :=
  resolveFrom_of_runsMarked runs hle hp hlive (nslots + 1) 0 (by omega) (Nat.zero_le p) fun _ => .inl rfl

section
variable {m : Memory} {nslots le : Nat}

theorem TableWFAt.runsMarked (wf : TableWFAt nslots le m) : RunsMarked m le := wf.spans

/-- On a well-formed table `resolve` answers each index below the count with the live slot of that index. -/
theorem TableWFAt.resolve (wf : TableWFAt nslots le m) {i : Nat} (hi : i < liveCount m) :
    ∃ p, p < le ∧ ¬ Tomb m p ∧ logicalOf m p = i ∧ resolve m nslots i = .ok p := by
  rw [← wf.liveSlots] at hi
  obtain ⟨p, hp, hlive, rfl⟩ := exists_live_of_lt_logicalOf hi
  exact ⟨p, hp, hlive, rfl, resolve_logicalOf wf.runsMarked wf.bound hp hlive⟩

theorem TableWFAt.liveCount_le (wf : TableWFAt nslots le m) : liveCount m ≤ nslots := by
  rw [← wf.liveSlots]
  exact (logicalOf_le le).trans wf.bound

/-- The logical end is `le` where `le` is 0 or follows the last live slot. -/
theorem logicalEnd_of_runsMarked (runs : RunsMarked m le) (hle : le ≤ nslots) (hcount : logicalOf m le = liveCount m)
    (hlast : le = 0 ∨ ¬ Tomb m (le - 1)) : logicalEnd m nslots = .ok le := by
  cases le with
  | zero =>
    have hzero : liveCount m = 0 := hcount.symm
    rw [logicalEnd, if_pos hzero]
  | succ p =>
    have hlive : ¬ Tomb m p := hlast.resolve_left (Nat.succ_ne_zero p)
    have hindex : liveCount m = logicalOf m p + 1 := by rw [← hcount, logicalOf_succ_of_live hlive]
    rw [logicalEnd, hindex, if_neg (Nat.succ_ne_zero _), Nat.add_sub_cancel,
      resolve_logicalOf runs hle (Nat.lt_succ_self p) hlive]

/-- A table whose runs below some end are marked, and whose counter counts the live slots there, is well formed: its
logical end is that end without the run below it (R47, R100). -/
theorem tableWF_of_runsMarked (runs : RunsMarked m le) (hle : le ≤ nslots) (hcount : logicalOf m le = liveCount m) :
    TableWF nslots m := by
  obtain ⟨e, run⟩ := exists_run_before (m := m) (le_refl le) (.inl rfl)
  have he : e ≤ nslots := run.ordered.trans hle
  have hruns := runs.below run.ordered run.left
  have hlive : logicalOf m e = liveCount m := by rw [← hcount, logicalOf_of_tombs run.ordered run.tombs]
  refine ⟨e, logicalEnd_of_runsMarked hruns he hlive run.left, he, hlive, fun hpos => ?_, hruns⟩
  refine run.left.resolve_left ?_
  rintro rfl
  exact hpos.ne hlive

end

/-! ## A run rewritten -/

/-- Below `le`, `m'` differs from `m` only in the slots `lo .. hi - 1`, which border on no tombstoned slot of `m`; of
them the slots `a .. b - 1` are tombstoned, and their length stands at both ends. -/
structure RunRewritten (m m' : Memory) (le lo hi a b : Nat) : Prop where
  ordered : lo ≤ hi
  inside : hi ≤ le
  left : lo = 0 ∨ ¬ Tomb m (lo - 1)
  right : hi = le ∨ ¬ Tomb m hi
  outside : ∀ q, q < le → q < lo ∨ hi ≤ q → markerAt m' q = markerAt m q
  remains : lo ≤ a ∧ b ≤ hi
  tombs : ∀ q, lo ≤ q → q < hi → (Tomb m' q ↔ a ≤ q ∧ q < b)
  marked : a < b → markerAt m' a = marker (b - a) ∧ markerAt m' (b - 1) = marker (b - a)
  short : b - a ≤ 127

section
variable {m m' : Memory} {le lo hi a b : Nat} (w : RunRewritten m m' le lo hi a b)
include w

theorem RunRewritten.tomb_outside {q : Nat} (hq : q < le) (hout : q < lo ∨ hi ≤ q) : Tomb m' q ↔ Tomb m q :=
  tomb_congr (w.outside q hq hout)

/-- A span of the new table lies below the rewritten slots, above them, or is what remains of them. -/
theorem RunRewritten.span_cases {h t : Nat} (span : IsSpan m' le h t) :
    t + 1 < lo ∨ hi < h ∨ (a < b ∧ h = a ∧ t + 1 = b) := by
  obtain ⟨hordered, hinside, htombs, hleft, hright⟩ := span
  obtain ⟨ha, hb⟩ := w.remains
  have hhi := w.inside
  have hbelow : h < lo → t + 1 < lo := fun hlo => by
    by_contra hcon
    have hedge := w.left.resolve_left (by omega)
    exact hedge ((w.tomb_outside (by omega) (.inl (by omega))).1 (htombs (lo - 1) (by omega) (by omega)))
  have habove : hi ≤ t → hi < h := fun ht => by
    by_contra hcon
    have hedge := w.right.resolve_left (by omega)
    exact hedge ((w.tomb_outside (by omega) (.inr le_rfl)).1 (htombs hi (by omega) ht))
  by_cases hlo : h < lo
  · exact .inl (hbelow hlo)
  · by_cases ht : hi ≤ t
    · exact .inr (.inl (habove ht))
    · have hhead := (w.tombs h (by omega) (by omega)).1 (htombs h le_rfl hordered)
      have htail := (w.tombs t (by omega) (by omega)).1 (htombs t hordered le_rfl)
      have hfirst : ¬ a < h := fun hah =>
        hleft.resolve_left (by omega) ((w.tombs (h - 1) (by omega) (by omega)).2 (by omega))
      have hlast : ¬ t + 1 < b := fun htb =>
        hright.resolve_left (by omega) ((w.tombs (t + 1) (by omega) (by omega)).2 (by omega))
      exact .inr (.inr (by omega))

/-- A span away from the rewritten slots was there before. -/
theorem RunRewritten.isSpan_outside {h t : Nat} (span : IsSpan m' le h t) (hout : t + 1 < lo ∨ hi < h) :
    IsSpan m le h t where
  ordered := span.ordered
  inside := span.inside
  tombs := fun q h1 h2 =>
    (w.tomb_outside (by have := span.inside; omega) (by omega)).1 (span.tombs q h1 h2)
  leftEdge := span.leftEdge.imp_right <| mt (w.tomb_outside
    (by have := span.ordered; have := span.inside; omega) (by have := span.ordered; omega)).2
  rightEdge := by
    by_cases hend : t + 1 = le
    · exact .inl hend
    · refine .inr (mt (w.tomb_outside ?_ ?_).2 (span.rightEdge.resolve_left hend))
      · have := span.inside; omega
      · have := span.ordered; omega

theorem RunRewritten.runsMarked (runs : RunsMarked m le) : RunsMarked m' le := by
  intro h t span
  have hinside := span.inside
  have hordered := span.ordered
  have outer : t + 1 < lo ∨ hi < h →
      markerAt m' h = marker (t - h + 1) ∧ markerAt m' t = marker (t - h + 1) ∧ t - h + 1 ≤ 127 := fun hout => by
    rw [w.outside h (by omega) (by omega), w.outside t hinside (by omega)]
    exact runs h t (w.isSpan_outside span hout)
  obtain hlow | hhigh | ⟨hab, rfl, rfl⟩ := w.span_cases span
  · exact outer (.inl hlow)
  · exact outer (.inr hhigh)
  · obtain ⟨hhead, htail⟩ := w.marked hab
    have hlen : t - h + 1 = t + 1 - h := by omega
    rw [hlen]
    exact ⟨hhead, htail, w.short⟩

end

end Sys2Proof.Machine
end

section
/-! PROOFS. The key store's commands on the slot table: what their writes do to the markers and the counter, and that
insert and delete keep it well formed (R48, R91 to R100). -/

namespace Sys2Proof.Machine

/-! ## Markers and counter after writes (R40, R42) -/

theorem slotAddr_inj {p q : Nat} : slotAddr p = slotAddr q ↔ p = q := by
  unfold slotAddr
  omega

theorem memWrite_one (a v : Nat) : memWrite a 1 v = [(a, BitVec.ofNat 8 v)] := rfl

theorem markerAt_storeAll_other (m : Memory) {cells : List Host.Cell} {q : Nat} (h : ∀ c ∈ cells, c.1 ≠ slotAddr q) :
    markerAt (m.storeAll cells) q = markerAt m q :=
  Memory.read_storeAll_other m cells _ h

theorem liveCount_storeAll_other (m : Memory) {cells : List Host.Cell} (h : ∀ c ∈ cells, 2 ≤ c.1) :
    liveCount (m.storeAll cells) = liveCount m := by
  have hread : ∀ a, a < 2 → (m.storeAll cells).read a = m.read a := fun a ha =>
    Memory.read_storeAll_other m cells a fun c hc => by have := h c hc; omega
  simp only [liveCount, memRead, Memory.readBytes, hread 0 (by decide), hread (0 + 1) (by decide)]

section
variable (m : Memory) (p v : Nat)

/-- A byte written at the head of a slot is its marker. -/
@[simp] theorem markerAt_storeAll_marker (q : Nat) :
    markerAt (m.storeAll (memWrite (slotAddr p) 1 v)) q = if q = p then BitVec.ofNat 8 v else markerAt m q := by
  simp only [markerAt, memWrite_one, Memory.storeAll_cons, Memory.storeAll_nil, Memory.read_store, slotAddr_inj]

@[simp] theorem liveCount_storeAll_marker :
    liveCount (m.storeAll (memWrite (slotAddr p) 1 v)) = liveCount m :=
  liveCount_storeAll_other m fun c hc => by
    have := mem_memWrite hc
    unfold slotAddr at this
    omega

@[simp] theorem markerAt_storeAll_counter (q : Nat) : markerAt (m.storeAll (memWrite 0 2 v)) q = markerAt m q :=
  markerAt_storeAll_other m fun c hc => by
    have := mem_memWrite hc
    unfold slotAddr
    omega

@[simp] theorem liveCount_storeAll_counter : liveCount (m.storeAll (memWrite 0 2 v)) = v % 65536 := by
  simp only [liveCount, memRead, Memory.readBytes, memWrite, leBytes, cellsFrom, Memory.storeAll_cons,
    Memory.storeAll_nil, Memory.read_store, leNumber, Nat.zero_add, zero_ne_one, if_true, if_false,
    BitVec.toNat_ofNat]
  omega

end

/-- A record is its type byte, then bytes inside its slot above it (R88). -/
theorem recordWrites_split (r : Regs) (n p : Nat) : ∃ body,
    recordWrites r n p = memWrite (slotAddr p) 1 r.keyType.toNat ++ body ∧
      ∀ c ∈ body, slotAddr p < c.1 ∧ c.1 < slotAddr (p + 1) := by
  refine ⟨_, by rw [recordWrites, List.append_assoc, List.append_assoc], fun c hc => ?_⟩
  have hlen : (r.namebuf.toList.take (n + 1)).length ≤ 32 := by simp
  have hnext : slotAddr (p + 1) = slotAddr p + 41 := by unfold slotAddr; omega
  obtain hc | hc | hc : _ ∨ _ ∨ _ := by simpa only [List.mem_append] using hc
  · have := mem_cellsFrom hc
    omega
  · have := mem_memWrite hc
    omega
  · have := mem_memWrite hc
    omega

@[simp] theorem markerAt_storeAll_record (m : Memory) (r : Regs) (n p q : Nat) :
    markerAt (m.storeAll (recordWrites r n p)) q = if q = p then r.keyType else markerAt m q := by
  obtain ⟨body, hwrites, hbody⟩ := recordWrites_split r n p
  rw [hwrites, Memory.storeAll_append, markerAt_storeAll_other, markerAt_storeAll_marker, BitVec.ofNat_toNat,
    BitVec.setWidth_eq]
  intro c hc
  have := hbody c hc
  unfold slotAddr at *
  omega

@[simp] theorem liveCount_storeAll_record (m : Memory) (r : Regs) (n p : Nat) :
    liveCount (m.storeAll (recordWrites r n p)) = liveCount m := by
  obtain ⟨body, hwrites, hbody⟩ := recordWrites_split r n p
  rw [hwrites, Memory.storeAll_append, liveCount_storeAll_other, liveCount_storeAll_marker]
  intro c hc
  have := (hbody c hc).1
  unfold slotAddr at this
  omega

/-- A command that ends without an error has carried out a plan. -/
theorem carryOut_no_error {s : State} {r : Except CmdError StorePlan} (h : (s.carryOut r).regs.status.err = false) :
    ∃ plan, r = .ok plan ∧ (s.carryOut r).cfg = s.cfg ∧ (s.carryOut r).nvm = s.nvm.storeAll plan.writes := by
  cases r with
  | ok plan => exact ⟨plan, rfl, rfl, rfl⟩
  | error e => cases h

/-! ## First fit (R85, R91, R92) -/

theorem firstTombFrom_none {m : Memory} {n p : Nat} (h : firstTombFrom m n p = none) :
    ∀ q, p ≤ q → q < p + n → ¬ Tomb m q := by
  induction n generalizing p with
  | zero => intro q h1 h2; omega
  | succ n ih =>
    intro q h1 h2
    unfold firstTombFrom at h
    split at h
    · cases h
    · next ht =>
      obtain rfl | hq := eq_or_ne q p
      · exact ht
      · exact ih h q (by omega) (by omega)

/-- The markers left on the slots `a .. b - 1` of a run that lost a slot: none where no slot is left. -/
def remainderMarks (a b : Nat) : List (Nat × Nat) :=
  if a < b then [(a, b - a), (b - 1, b - a)] else []

/-- The slot a run `lo .. hi - 1` loses to an insert, and the slots `a .. b - 1` that are left (R91, R92). -/
inductive RunLoss (lo hi : Nat) : (slot a b : Nat) → Prop where
  | head : RunLoss lo hi lo (lo + 1) hi
  | tail : RunLoss lo hi (hi - 1) lo (hi - 1)

/-- First fit on a table with marked runs: it appends at the logical end where no slot below it is tombstoned, or it
takes a slot of the first run. -/
theorem chooseBelow_cases {c : Config} {m : Memory} {le : Nat} {x : InsertChoice} (runs : RunsMarked m le)
    (h : chooseBelow c m le = .ok x) :
    (le ≠ c.nslots ∧ (∀ q, q < le → ¬ Tomb m q) ∧ x.slot = le ∧ x.marks = []) ∨
    ∃ lo hi a b, Run m le lo hi ∧ lo < hi ∧ RunLoss lo hi x.slot a b ∧ x.marks = remainderMarks a b := by
  unfold chooseBelow firstTomb at h
  split at h
  · next hnone =>
    split at h
    · cases h
    · next hroom =>
      cases h
      exact .inl ⟨hroom, fun q hq => firstTombFrom_none hnone q (Nat.zero_le q) (by omega), rfl, rfl⟩
  · next lo hsome =>
    obtain ⟨-, hlo, htomb, hbelow⟩ := firstTombFrom_some hsome
    have hlo : lo < le := by omega
    have hleft : lo = 0 ∨ ¬ Tomb m (lo - 1) := (Nat.eq_zero_or_pos lo).imp_right fun hpos => by
      simp [Tomb, hbelow (lo - 1) (Nat.zero_le _) (by omega)]
    obtain ⟨hi, run⟩ := exists_run_from hlo.le hleft
    have hrun := run.nonempty hlo htomb
    have hlen := (runs.runlen run hrun).1
    have hinside := run.inside
    dsimp only at h
    rw [hlen, if_neg (by omega)] at h
    refine .inr ⟨lo, hi, ?_⟩
    have hlast : lo + (hi - lo) - 1 = hi - 1 := by omega
    have hbefore : lo + (hi - lo) - 2 = hi - 1 - 1 := by omega
    have hrest : hi - lo - 1 = hi - (lo + 1) ∧ hi - lo - 1 = hi - 1 - lo := by omega
    split_ifs at h
    · cases h
      exact ⟨lo + 1, hi, run, hrun, .head, by rw [remainderMarks, if_neg (by omega)]⟩
    · split at h
      · cases h
        refine ⟨lo + 1, hi, run, hrun, .head, ?_⟩
        rw [remainderMarks, if_pos (by omega), hlast, hrest.1]
      · cases h
        refine ⟨lo, hi - 1, run, hrun, ?_, ?_⟩
        · rw [hlast]
          exact .tail
        · rw [remainderMarks, if_pos (by omega), hlast, hbefore, hrest.2]

/-- Boundary markers stand at both ends of what is left of a run. -/
theorem markerAt_storeAll_remainder (m : Memory) (a b q : Nat) :
    markerAt (m.storeAll (markWrites (remainderMarks a b))) q =
      if a < b ∧ (q = a ∨ q = b - 1) then marker (b - a) else markerAt m q := by
  unfold remainderMarks
  split
  · next hab =>
    simp only [markWrites, List.append_nil, Memory.storeAll_append, markerAt_storeAll_marker, BitVec.ofNat_toNat,
      BitVec.setWidth_eq, hab, true_and]
    by_cases ha : q = a <;> by_cases hb : q = b - 1 <;> simp [ha, hb]
  · next hab => simp [markWrites, hab]

/-! ## KS_INSERT (R94, R96) -/

theorem RunLoss.remains {lo hi slot a b : Nat} (h : RunLoss lo hi slot a b) (hrun : lo < hi) :
    lo ≤ slot ∧ slot < hi ∧ lo ≤ a ∧ b ≤ hi ∧ ∀ q, lo ≤ q → q < hi → (q ≠ slot ↔ a ≤ q ∧ q < b) := by
  cases h <;> exact ⟨by omega, by omega, by omega, by omega, fun q h1 h2 => by omega⟩

section
variable {m m' : Memory} {nslots le : Nat} (wf : TableWFAt nslots le m) (hslots : nslots ≤ 127)
  (hcount : liveCount m' = liveCount m + 1)
include wf hcount

/-- R96: a record appended at the logical end of a table without runs. -/
theorem TableWFAt.append (hroom : le ≠ nslots) (hlive : ∀ q, q < le → ¬ Tomb m q) (hnew : ¬ Tomb m' le)
    (hother : ∀ q, q ≠ le → markerAt m' q = markerAt m q) : TableWF nslots m' := by
  have hbelow : ∀ q, q < le → (Tomb m' q ↔ Tomb m q) := fun q hq => tomb_congr (hother q hq.ne)
  have hnone : ∀ q, q < le + 1 → ¬ Tomb m' q := fun q hq => by
    obtain rfl | hne := eq_or_ne q le
    · exact hnew
    · exact mt (hbelow q (by omega)).1 (hlive q (by omega))
  refine tableWF_of_runsMarked (le := le + 1) (fun h t span => ?_) (lt_of_le_of_ne wf.bound hroom) ?_
  · exact absurd (span.tombs t span.ordered le_rfl) (hnone t span.inside)
  · rw [logicalOf_succ_of_live hnew, logicalOf_congr hbelow, wf.liveSlots, hcount]

include hslots

/-- R96: a record in a slot that a run has lost. -/
theorem TableWFAt.reuse {lo hi slot a b : Nat} (run : Run m le lo hi) (hrun : lo < hi)
    (hloss : RunLoss lo hi slot a b) (hnew : ¬ Tomb m' slot)
    (hother : ∀ q, q ≠ slot →
      markerAt m' q = if a < b ∧ (q = a ∨ q = b - 1) then marker (b - a) else markerAt m q) :
    TableWF nslots m' := by
  obtain ⟨hlow, hhigh, ha, hb, hrest⟩ := hloss.remains hrun
  have hinside := run.inside
  have hbound := wf.bound
  have htombs : ∀ q, lo ≤ q → q < hi → q ≠ slot → Tomb m' q := fun q h1 h2 hq => by
    have hmark := hother q hq
    split at hmark
    · exact tomb_of_marker hmark
    · exact (tomb_congr hmark).2 (run.tombs q h1 h2)
  have w : RunRewritten m m' le lo hi a b :=
    { ordered := run.ordered
      inside := run.inside
      left := run.left
      right := run.right
      outside := fun q hq hout => by rw [hother q (by omega), if_neg (by omega)]
      remains := ⟨ha, hb⟩
      tombs := fun q h1 h2 => by
        rw [← hrest q h1 h2]
        exact ⟨fun ht hq => hnew (hq ▸ ht), htombs q h1 h2⟩
      marked := fun hab => by
        have hhead := (hrest a ha (by omega)).2 ⟨le_rfl, hab⟩
        have htail := (hrest (b - 1) (by omega) (by omega)).2 (by omega)
        rw [hother a hhead, hother (b - 1) htail, if_pos ⟨hab, .inl rfl⟩, if_pos ⟨hab, .inr rfl⟩]
        exact ⟨rfl, rfl⟩
      short := by omega }
  refine tableWF_of_runsMarked (w.runsMarked wf.runsMarked) hbound ?_
  rw [hcount, ← wf.liveSlots]
  refine logicalOf_of_slot_live (by omega) hnew (run.tombs slot hlow hhigh) fun q hq hne => ?_
  by_cases hin : lo ≤ q ∧ q < hi
  · exact iff_of_true (htombs q hin.1 hin.2 hne) (run.tombs q hin.1 hin.2)
  · exact w.tomb_outside hq (by omega)

end

theorem insertPlan_ok {c : Config} {r : Regs} {m : Memory} {plan : StorePlan} (h : insertPlan c r m = .ok plan) :
    isTomb r.keyType = false ∧ ∃ n x, chooseSlot c m = .ok x ∧
      plan.writes = markWrites x.marks ++ memWrite 0 2 ((liveCount m + 1) % 65536) ++ recordWrites r n x.slot := by
  unfold insertPlan at h
  split at h
  · cases h
  · next ht =>
    split at h
    · cases h
    · next n _ =>
      split at h
      · cases h
      · next x hx =>
        cases h
        exact ⟨by simpa using ht, n, x, hx, rfl⟩

/-- The writes of an insert keep the table well formed and raise the counter by one. -/
theorem insertPlan_keeps_table {c : Config} {r : Regs} {m : Memory} {plan : StorePlan} (hslots : c.nslots ≤ 127)
    (wf : TableWF c.nslots m) (h : insertPlan c r m = .ok plan) :
    TableWF c.nslots (m.storeAll plan.writes) ∧ liveCount (m.storeAll plan.writes) = liveCount m + 1 := by
  obtain ⟨le, wf⟩ := wf
  obtain ⟨hkey, n, x, hx, hwrites⟩ := insertPlan_ok h
  rw [chooseSlot_of_logicalEnd c m le wf.logicalEnd] at hx
  have hmarks : ∀ q, markerAt (m.storeAll plan.writes) q =
      if q = x.slot then r.keyType else markerAt (m.storeAll (markWrites x.marks)) q := fun q => by
    simp [hwrites, Memory.storeAll_append]
  have hnew : ¬ Tomb (m.storeAll plan.writes) x.slot := by simp [Tomb, hmarks, hkey]
  have hcount : liveCount (m.storeAll plan.writes) = liveCount m + 1 := by
    have := wf.liveCount_le
    simp only [hwrites, Memory.storeAll_append, liveCount_storeAll_record, liveCount_storeAll_counter]
    omega
  refine ⟨?_, hcount⟩
  obtain ⟨hroom, hlive, hslot, hnomarks⟩ | ⟨lo, hi, a, b, run, hrun, hloss, hrest⟩ := chooseBelow_cases wf.runsMarked hx
  · refine wf.append hcount hroom hlive (hslot ▸ hnew) fun q hq => ?_
    rw [hmarks, if_neg (hslot ▸ hq), hnomarks, markWrites, Memory.storeAll_nil]
  · refine wf.reuse hslots hcount run hrun hloss hnew fun q hq => ?_
    rw [hmarks, if_neg hq, hrest, markerAt_storeAll_remainder]

theorem nslots_le_of_ok {c : Config} (h : c.ok = true) : c.nslots ≤ 127 := by
  simp only [Config.ok, Bool.and_eq_true, decide_eq_true_eq] at h
  omega

/-- Settles O47: an insert that ends without an error has carried out its plan (`insertPlan_keeps_table`). -/
theorem insertKeepsTable : Obligations.InsertKeepsTable := by
  intro s t hok wf ht herr
  cases ht
  obtain ⟨plan, hplan, hcfg, hnvm⟩ := carryOut_no_error herr
  rw [hcfg, hnvm]
  exact insertPlan_keeps_table (nslots_le_of_ok hok) wf hplan

/-! ## KS_DELETE (R97 to R100) -/

section
variable {m : Memory} {le p : Nat} (runs : RunsMarked m le)
include runs

/-- The left half of the neighbour analysis finds the run that ends below `p` (R97). -/
theorem leftRun_of_run {a : Nat} (run : Run m le a p) : leftRun m p = .ok (p - a) := by
  have hordered := run.ordered
  unfold leftRun
  obtain rfl | hap := eq_or_ne a p
  · obtain rfl | hleft := run.left
    · simp
    · rw [Tomb] at hleft
      simp [hleft]
  · have hap : a < p := by omega
    have ht : isTomb (markerAt m (p - 1)) = true := run.tombs (p - 1) (by omega) (by omega)
    rw [if_neg (by omega), if_pos ht, (runs.runlen run hap).2, if_neg (by omega), if_neg (by omega)]

/-- The right half finds the run that begins above `p`, which the last live slot ends (R97). -/
theorem rightRun_of_run {b : Nat} (run : Run m le (p + 1) b) (hlast : ¬ Tomb m (le - 1)) :
    rightRun m p le = .ok (b - (p + 1)) := by
  have hordered := run.ordered
  have hinside := run.inside
  unfold rightRun
  obtain rfl | hpb := eq_or_ne (p + 1) b
  · obtain hend | hright := run.right
    · simp [hend]
    · rw [Tomb] at hright
      simp [hright]
  · have hpb : p + 1 < b := by omega
    have ht : isTomb (markerAt m (p + 1)) = true := run.tombs (p + 1) le_rfl hpb
    have hb : b ≠ le := fun hb => hlast (run.tombs (le - 1) (by omega) (by omega))
    rw [if_pos (by omega), if_pos ht, (runs.runlen run hpb).1, if_neg (by omega), if_neg (by omega)]

end

/-- A delete's plan on a well-formed table: its slot `p` with the runs `a .. p - 1` and `p + 1 .. b - 1` beside it. -/
theorem deletePlan_ok {m : Memory} {nslots le n : Nat} {plan : StorePlan} (wf : TableWFAt nslots le m)
    (h : deletePlan nslots m n = .ok plan) :
    0 < liveCount m ∧ ∃ a p b, p < le ∧ ¬ Tomb m p ∧ Run m le a p ∧ Run m le (p + 1) b ∧
      plan.writes = memWrite (slotAddr p) 1 (marker 1).toNat ++ memWrite 0 2 (liveCount m - 1)
        ++ mergeWrites p (p - a) (b - (p + 1)) := by
  unfold deletePlan at h
  by_cases hn : liveCount m ≤ n
  · rw [if_pos hn] at h
    cases h
  · obtain ⟨p, hp, hlive, -, hresolve⟩ := wf.resolve (not_le.1 hn)
    have hpos : 0 < liveCount m := by omega
    obtain ⟨a, left⟩ := exists_run_before hp.le (.inr hlive)
    obtain ⟨b, right⟩ := exists_run_from (a := p + 1) hp (.inr hlive)
    have hneighbours : neighbours m p le = .ok (p - a, b - (p + 1)) := by
      rw [neighbours, leftRun_of_run wf.runsMarked left, rightRun_of_run wf.runsMarked right (wf.lastLive hpos)]
    rw [if_neg hn, wf.logicalEnd, hresolve] at h
    dsimp only at h
    rw [hneighbours] at h
    cases h
    exact ⟨hpos, a, p, b, hp, hlive, left, right, rfl⟩

theorem markerAt_storeAll_merge (m : Memory) (p l r q : Nat) :
    markerAt (m.storeAll (mergeWrites p l r)) q =
      if (l ≠ 0 ∨ r ≠ 0) ∧ (q = p - l ∨ q = p + r) then marker (l + 1 + r) else markerAt m q := by
  unfold mergeWrites
  split
  · next h => simp [h]
  · next h =>
    have hmerge : l ≠ 0 ∨ r ≠ 0 := by omega
    simp only [Memory.storeAll_append, markerAt_storeAll_marker, BitVec.ofNat_toNat, BitVec.setWidth_eq, hmerge,
      true_and]
    by_cases hl : q = p - l <;> by_cases hr : q = p + r <;> simp [hl, hr]

theorem liveCount_storeAll_merge (m : Memory) (p l r : Nat) :
    liveCount (m.storeAll (mergeWrites p l r)) = liveCount m := by
  unfold mergeWrites
  split
  · rfl
  · rw [Memory.storeAll_append, liveCount_storeAll_marker, liveCount_storeAll_marker]

/-- R100: the freed slot `p` and the runs beside it as one run. -/
theorem TableWFAt.merge {m m' : Memory} {nslots le a p b : Nat} (wf : TableWFAt nslots le m) (hslots : nslots ≤ 127)
    (hcount : liveCount m' + 1 = liveCount m) (hp : p < le) (hlive : ¬ Tomb m p) (left : Run m le a p)
    (right : Run m le (p + 1) b)
    (hmarks : ∀ q, markerAt m' q =
      if q = a ∨ q = b - 1 then marker (b - a) else if q = p then marker 1 else markerAt m q) :
    TableWF nslots m' := by
  have hap := left.ordered
  have hpb := right.ordered
  have hinside := right.inside
  have hbound := wf.bound
  have hold : ∀ q, a ≤ q → q < b → q ≠ p → Tomb m q := fun q h1 h2 hq => by
    obtain hlt | hgt := Nat.lt_or_gt_of_ne hq
    · exact left.tombs q h1 hlt
    · exact right.tombs q hgt h2
  have htombs : ∀ q, a ≤ q → q < b → Tomb m' q := fun q h1 h2 => by
    have hmark := hmarks q
    split_ifs at hmark with hend hfreed
    · exact tomb_of_marker hmark
    · exact tomb_of_marker hmark
    · exact (tomb_congr hmark).2 (hold q h1 h2 hfreed)
  have w : RunRewritten m m' le a b a b :=
    { ordered := by omega
      inside := hinside
      left := left.left
      right := right.right
      outside := fun q hq hout => by rw [hmarks, if_neg (by omega), if_neg (by omega)]
      remains := ⟨le_rfl, le_rfl⟩
      tombs := fun q h1 h2 => iff_of_true (htombs q h1 h2) ⟨h1, h2⟩
      marked := fun _ => ⟨by rw [hmarks, if_pos (.inl rfl)], by rw [hmarks, if_pos (.inr rfl)]⟩
      short := by omega }
  refine tableWF_of_runsMarked (w.runsMarked wf.runsMarked) hbound ?_
  have hlost : logicalOf m le = logicalOf m' le + 1 := by
    refine logicalOf_of_slot_live hp hlive (htombs p hap hpb) fun q hq hne => ?_
    by_cases hin : a ≤ q ∧ q < b
    · exact iff_of_true (hold q hin.1 hin.2 hne) (htombs q hin.1 hin.2)
    · exact (w.tomb_outside hq (by omega)).symm
  have hlives := wf.liveSlots
  omega

/-- The writes of a delete keep the table well formed and lower the counter by one. -/
theorem deletePlan_keeps_table {m : Memory} {nslots n : Nat} {plan : StorePlan} (hslots : nslots ≤ 127)
    (wf : TableWF nslots m) (h : deletePlan nslots m n = .ok plan) :
    TableWF nslots (m.storeAll plan.writes) ∧ liveCount (m.storeAll plan.writes) + 1 = liveCount m := by
  obtain ⟨le, wf⟩ := wf
  obtain ⟨hpos, a, p, b, hp, hlive, left, right, hwrites⟩ := deletePlan_ok wf h
  have hap := left.ordered
  have hpb := right.ordered
  have hends : p - (p - a) = a ∧ p + (b - (p + 1)) = b - 1 ∧ p - a + 1 + (b - (p + 1)) = b - a := by omega
  have hcount : liveCount (m.storeAll plan.writes) + 1 = liveCount m := by
    have := wf.liveCount_le
    simp only [hwrites, Memory.storeAll_append, liveCount_storeAll_merge, liveCount_storeAll_counter]
    omega
  refine ⟨wf.merge hslots hcount hp hlive left right fun q => ?_, hcount⟩
  rw [hwrites, Memory.storeAll_append, Memory.storeAll_append, markerAt_storeAll_merge, markerAt_storeAll_counter,
    markerAt_storeAll_marker, BitVec.ofNat_toNat, BitVec.setWidth_eq, hends.1, hends.2.1, hends.2.2]
  by_cases hmerge : p - a ≠ 0 ∨ b - (p + 1) ≠ 0
  · simp [hmerge]
  · have hone : p = a ∧ b - 1 = a ∧ b - a = 1 := by omega
    by_cases hq : q = a <;> simp [hone, hq]

/-- Settles O48: a delete that ends without an error has carried out its plan (`deletePlan_keeps_table`). -/
theorem deleteKeepsTable : Obligations.DeleteKeepsTable := by
  intro n s t hok wf ht herr
  cases ht
  obtain ⟨plan, hplan, hcfg, hnvm⟩ := carryOut_no_error herr
  rw [hcfg, hnvm]
  exact deletePlan_keeps_table (nslots_le_of_ok hok) wf hplan

end Sys2Proof.Machine
end

section
/-! PROOFS. The command word (R60 to R69): what a row of the opcode map says of its words, that `decode` is the one row
that selects the word, and that `decode` and `encode` are inverse to each other. -/

namespace Sys2Proof

/-! ## The rows of the opcode map (R63) -/

theorem OpcodeRow.selects_iff {r : OpcodeRow} {w : Word} : r.selects w = true ↔ w &&& r.mask = r.pattern := by
  simp [OpcodeRow.selects]

/-- The opcodes of the rows differ (R64). -/
theorem opcodeMap_opcodes_nodup : (opcodeMap.map fun r => opcodeField r.pattern).Nodup := by decide

theorem opcodeMap_eq_of_opcode_eq {r q : OpcodeRow} (hr : r ∈ opcodeMap) (hq : q ∈ opcodeMap)
    (h : opcodeField r.pattern = opcodeField q.pattern) : r = q :=
  List.inj_on_of_nodup_map opcodeMap_opcodes_nodup hr hq h

/-- Every command is made by a row of the map from its operand. -/
theorem exists_row_make (i : Instr) : ∃ r ∈ opcodeMap, r.make i.operand = i := by
  cases i <;> simp [opcodeMap, Instr.operand]

section
variable {r : OpcodeRow} {w : Word} (hr : r ∈ opcodeMap)
include hr

/-- No mask leaves a bit of the opcode. -/
theorem opcodeMap_mask_opcode : opcodeField r.mask = 0xFF#8 := by
  have hmasks : ∀ r ∈ opcodeMap, opcodeField r.mask = 0xFF#8 := by decide
  exact hmasks r hr

theorem opcodeMap_pattern_masked : r.pattern &&& r.mask = r.pattern := by
  have hpatterns : ∀ r ∈ opcodeMap, r.pattern &&& r.mask = r.pattern := by decide
  exact hpatterns r hr

/-- The bits a mask leaves are the operand field of the row's form (R61). -/
theorem opcodeMap_operandMask (n : Nat) : ~~~r.mask = BitVec.ofNat 32 (r.make n).form.maxOperand := by
  revert r
  simp [opcodeMap, Instr.form, Form.maxOperand]

/-- A row's command keeps an operand that fits its form. -/
theorem opcodeMap_make_operand {n : Nat} (h : n ≤ (r.make n).form.maxOperand) : (r.make n).operand = n := by
  revert r
  simp [opcodeMap, Instr.form, Form.maxOperand, Instr.operand, eq_comm]

/-- The word of a row's command is the row's pattern with the operand in its low bits (R60, R62). -/
theorem opcodeMap_encode_make (n : Nat) : encode (r.make n) = r.pattern ||| BitVec.ofNat 32 (r.make n).operand := by
  revert r
  simp [opcodeMap, encode, Instr.operand]

/-- A selected word carries the row's opcode. -/
theorem opcodeField_of_selects (h : r.selects w = true) : opcodeField w = opcodeField r.pattern := by
  have hand : opcodeField (w &&& r.mask) = opcodeField w &&& opcodeField r.mask := BitVec.extractLsb'_and
  rw [OpcodeRow.selects_iff.1 h, opcodeMap_mask_opcode hr] at hand
  rw [hand]
  exact (BitVec.and_allOnes).symm

/-- At most one row selects a word (R64). -/
theorem opcodeMap_selects_unique {q : OpcodeRow} (hq : q ∈ opcodeMap) (h : r.selects w = true)
    (h' : q.selects w = true) : r = q :=
  opcodeMap_eq_of_opcode_eq hr hq ((opcodeField_of_selects hr h).symm.trans (opcodeField_of_selects hq h'))

end

/-! ## The decoder (R64) -/

/-- `decode` is the row that selects the word. -/
theorem decode_eq_ok_iff {w : Word} {i : Instr} :
    decode w = .ok i ↔ ∃ r ∈ opcodeMap, r.selects w = true ∧ r.instr w = i := by
  unfold decode
  cases hfind : opcodeMap.find? fun r => r.selects w with
  | none =>
    have hnone := List.find?_eq_none.1 hfind
    constructor
    · intro h
      dsimp only at h
      split at h <;> cases h
    · rintro ⟨r, hr, hsel, -⟩
      exact absurd hsel (hnone r hr)
  | some q =>
    have hq := List.mem_of_find?_eq_some hfind
    have hqsel : q.selects w = true := List.find?_some (p := fun r : OpcodeRow => r.selects w) hfind
    constructor
    · intro h
      exact ⟨q, hq, hqsel, Except.ok.inj h⟩
    · rintro ⟨r, hr, hsel, rfl⟩
      rw [opcodeMap_selects_unique hr hq hsel hqsel]

/-- A word is `ILLEGAL` exactly where no row selects it. -/
theorem decode_error_iff {w : Word} : (∃ e, decode w = .error e) ↔ ∀ r ∈ opcodeMap, ¬ r.selects w = true := by
  constructor
  · rintro ⟨e, he⟩ r hr hsel
    have hok := decode_eq_ok_iff.2 ⟨r, hr, hsel, rfl⟩
    rw [he] at hok
    cases hok
  · intro hnone
    cases hw : decode w with
    | error e => exact ⟨e, rfl⟩
    | ok i =>
      obtain ⟨r, hr, hsel, -⟩ := decode_eq_ok_iff.1 hw
      exact absurd hsel (hnone r hr)

/-- A word of a listed opcode that misses its row is `ILLEGAL` (R64): no other row has its opcode. -/
theorem decode_error_of_missed_row {w : Word} {r : OpcodeRow} (hr : r ∈ opcodeMap)
    (hopc : opcodeField w = opcodeField r.pattern) (hmiss : ¬ r.selects w = true) : ∃ e, decode w = .error e := by
  refine decode_error_iff.2 fun q hq hsel => hmiss ?_
  obtain rfl := opcodeMap_eq_of_opcode_eq hr hq (hopc.symm.trans (opcodeField_of_selects hq hsel))
  exact hsel

/-- A word whose opcode is in no row is `ILLEGAL` (R65). -/
theorem decode_error_of_reserved {w : Word} (h : ∀ r ∈ opcodeMap, opcodeField r.pattern ≠ opcodeField w) :
    ∃ e, decode w = .error e :=
  decode_error_iff.2 fun r hr hsel => h r hr (opcodeField_of_selects hr hsel).symm

/-- The opcodes in no row are the four reserved ranges (R65). -/
theorem opcode_reserved_iff (b : Byte) : (∀ r ∈ opcodeMap, opcodeField r.pattern ≠ b) ↔
    (0x07 ≤ b.toNat ∧ b.toNat ≤ 0x0F) ∨ (0x14 ≤ b.toNat ∧ b.toNat ≤ 0x1F) ∨ (0x23 ≤ b.toNat ∧ b.toNat ≤ 0x2F) ∨
      0x36 ≤ b.toNat := by
  simp [opcodeMap, opcodeField, ← BitVec.toNat_inj]
  omega

/-! ## The operand field (R61, R62) -/

/-- The largest operand of a form is a field of low bits, so masking keeps an operand that fits. -/
theorem Form.and_maxOperand {f : Form} {n : Nat} (h : n ≤ f.maxOperand) : n &&& f.maxOperand = n := by
  cases f with
  | none => exact Nat.and_two_pow_sub_one_of_lt_two_pow (n := 0) (Nat.lt_succ_of_le h)
  | bit => exact Nat.and_two_pow_sub_one_of_lt_two_pow (n := 1) (Nat.lt_succ_of_le h)
  | byte => exact Nat.and_two_pow_sub_one_of_lt_two_pow (n := 8) (Nat.lt_succ_of_le h)
  | half => exact Nat.and_two_pow_sub_one_of_lt_two_pow (n := 16) (Nat.lt_succ_of_le h)

theorem Form.maxOperand_lt (f : Form) : f.maxOperand < 2 ^ 32 := by cases f <;> decide

theorem Instr.wellFormed_iff (i : Instr) : i.wellFormed = true ↔ i.operand ≤ i.form.maxOperand := decide_eq_true_iff

/-- Bits that lie under a mask are none that it leaves. -/
theorem and_not_eq_zero {x m : Word} (h : x &&& m = x) : x &&& ~~~m = 0#32 := by
  rw [← h, BitVec.and_assoc, BitVec.and_not_self]
  exact BitVec.and_zero

section
variable {r : OpcodeRow} (hr : r ∈ opcodeMap)
include hr

/-- The operand bits of a word are an operand that fits the form of the command they make. -/
theorem opcodeMap_operand_le (w : Word) (n : Nat) : (w &&& ~~~r.mask).toNat ≤ (r.make n).form.maxOperand := by
  rw [opcodeMap_operandMask hr n, BitVec.toNat_and, BitVec.toNat_ofNat, Nat.mod_eq_of_lt (Form.maxOperand_lt _)]
  exact Nat.and_le_right

/-- An operand that fits lies in the bits the row's mask leaves. -/
theorem opcodeMap_operand_and_not_mask {n : Nat} (h : n ≤ (r.make n).form.maxOperand) :
    BitVec.ofNat 32 n &&& ~~~r.mask = BitVec.ofNat 32 n := by
  rw [opcodeMap_operandMask hr n, ← BitVec.ofNat_and, Form.and_maxOperand h]

/-- The row's pattern with an operand that fits below it: the mask takes the pattern, and leaves the operand. -/
theorem opcodeMap_split_word {n : Nat} (h : n ≤ (r.make n).form.maxOperand) :
    (r.pattern ||| BitVec.ofNat 32 n) &&& r.mask = r.pattern ∧
    (r.pattern ||| BitVec.ofNat 32 n) &&& ~~~r.mask = BitVec.ofNat 32 n := by
  have hoperand := opcodeMap_operand_and_not_mask hr h
  have hpattern := opcodeMap_pattern_masked hr
  have hcleared : BitVec.ofNat 32 n &&& r.mask = 0#32 := by simpa using and_not_eq_zero hoperand
  constructor
  · rw [BitVec.and_or_distrib_right, hpattern, hcleared, BitVec.or_zero]
  · rw [BitVec.and_or_distrib_right, and_not_eq_zero hpattern, hoperand, BitVec.zero_or]

end

/-! ## The obligations of the command word -/

/-- Settles O1: the command's row selects its word and reads its operand back (`opcodeMap_split_word`). -/
theorem decodeEncodeRoundTrip : Obligations.DecodeEncodeRoundTrip := by
  intro i hi
  obtain ⟨r, hr, hmake⟩ := exists_row_make i
  have hfit : i.operand ≤ (r.make i.operand).form.maxOperand := by
    rw [hmake]
    exact i.wellFormed_iff.1 hi
  have hword : encode i = r.pattern ||| BitVec.ofNat 32 i.operand := by
    simpa only [hmake] using opcodeMap_encode_make hr i.operand
  obtain ⟨hmask, hleft⟩ := opcodeMap_split_word hr hfit
  rw [← hword] at hmask hleft
  refine decode_eq_ok_iff.2 ⟨r, hr, OpcodeRow.selects_iff.2 hmask, ?_⟩
  rw [OpcodeRow.instr, hleft, BitVec.toNat_ofNat, Nat.mod_eq_of_lt (lt_of_le_of_lt hfit (Form.maxOperand_lt _)), hmake]

/-- Settles O2: the word is its row's pattern under the mask and the command's operand in the bits the mask leaves. -/
theorem encodeDecodeRoundTrip : Obligations.EncodeDecodeRoundTrip := by
  intro w i hi
  obtain ⟨r, hr, hsel, rfl⟩ := decode_eq_ok_iff.1 hi
  have hfit := opcodeMap_operand_le hr w (w &&& ~~~r.mask).toNat
  have hoperand : (r.instr w).operand = (w &&& ~~~r.mask).toNat := opcodeMap_make_operand hr hfit
  constructor
  · rw [Instr.wellFormed_iff, hoperand]
    exact hfit
  · calc encode (r.instr w)
        = r.pattern ||| BitVec.ofNat 32 (r.instr w).operand := opcodeMap_encode_make hr _
      _ = w &&& r.mask ||| w &&& ~~~r.mask := by
        rw [hoperand, BitVec.ofNat_toNat, BitVec.setWidth_eq, OpcodeRow.selects_iff.1 hsel]
      _ = w := by rw [← BitVec.and_or_distrib_left, BitVec.or_not_self, BitVec.and_allOnes]

/-- Settles O3: the clauses are `decode_eq_ok_iff`, `decode_error_iff`, `opcodeMap_selects_unique`,
`opcodeMap_eq_of_opcode_eq` and `decode_error_of_missed_row`. -/
theorem decodeFollowsOpcodeMap : Obligations.DecodeFollowsOpcodeMap := by
  unfold Obligations.DecodeFollowsOpcodeMap
  simp only [← OpcodeRow.selects_iff, ne_eq]
  refine ⟨?matching, ?noRow, ?unique, ?opcodes, ?missed⟩
  case matching => exact fun w r hr hsel => decode_eq_ok_iff.2 ⟨r, hr, hsel, rfl⟩
  case noRow => exact fun w => decode_error_iff.2
  case unique => exact fun w r hr q hq hsel hsel' => congrArg _ (opcodeMap_selects_unique hr hq hsel hsel')
  case opcodes => exact fun r hr q hq hopc => congrArg _ (opcodeMap_eq_of_opcode_eq hr hq hopc)
  case missed => exact fun w r hr => decode_error_of_missed_row hr

/-- Settles O4: the reserved ranges (`opcode_reserved_iff`), and no row selects a word of theirs. -/
theorem reservedOpcodesAreIllegal : Obligations.ReservedOpcodesAreIllegal :=
  fun w => ⟨opcode_reserved_iff (opcodeField w), decode_error_of_reserved⟩

/-- Settles O5: each word is decoded, and each operand assembled, by evaluation. -/
theorem specWordsDecode : Obligations.SpecWordsDecode :=
  ⟨rfl, rfl, rfl, rfl, rfl, rfl, rfl, rfl, rfl, rfl⟩

end Sys2Proof
end

section
/-! PROOFS. The acceptance of a command word, the controller's turn on it, and the end of a command with an error (R66,
R73, R74, R147). -/

namespace Sys2Proof.Machine

/-- The controller moves when no input is waiting (R80). -/
theorem step_controller {s : State} (h : s.agenda = []) : step s = s.controllerTurn := by
  simp [step, State.advance, h]

/-- The controller's turn on an `ILLEGAL` word (R66). -/
theorem State.controllerTurn_illegal {s : State} {w : Word} {e : Illegal} (hseq : s.seq = .busy w)
    (hw : decode w = .error e) : s.controllerTurn = .next (s.raise (.illegalCommand w)) := by
  simp [State.controllerTurn, State.runCommand, hseq, hw]

/-- A 4-byte write to `CMD` names it while no command runs (R35). -/
theorem legalWrite_cmd : LegalWrite false ⟨.cmd, 0x00, 4, .command⟩ 0 4 := by
  refine ⟨?_, .inr ⟨rfl, rfl⟩, rfl⟩
  constructor <;> decide

/-- A 4-byte host write to `CMD` of an idle block is accepted (R73). -/
theorem step_accept {s : State} {w : Word} {rest : List Input}
    (hs : s.agenda = .host (.write s.cfg.base 4 w) :: rest) (hbusy : s.regs.status.busy = false) :
    step s = .next (State.accept { s with agenda := rest } w) := by
  have hoffset : s.agenda = .host (.write (s.cfg.base + 0) 4 w) :: rest := hs
  rw [step_host hoffset, State.hostAccess_write_at { s with agenda := rest }, State.hostWrite, hbusy,
    writeTarget_eq_some_iff.2 legalWrite_cmd]

/-- `raise` leaves what R147 says. -/
theorem State.raise_failedWith (s : State) (e : CmdError) : FailedWith s (s.raise e) e where
  untouched := ⟨rfl, rfl, rfl, rfl, rfl⟩
  result := rfl
  errcode := rfl
  err := rfl
  done := rfl
  busy := rfl
  fault := rfl
  hazard := rfl
  seq := rfl
  line := rfl
  frec := by
    rw [State.raise_frec, faultEntries]
    split <;> simp

/-- Settles O8: acceptance (`step_accept`), then `raise` in the controller's turn (`State.controllerTurn_illegal`). -/
theorem illegalWordCompletes : Obligations.IllegalWordCompletes := by
  intro s w e hw _ hbusy hs
  refine ⟨_, _, step_accept hs hbusy, rfl, rfl, (step_controller rfl).trans (State.controllerTurn_illegal rfl hw),
    State.raise_failedWith _ _, rfl, rfl, rfl, ?fault, rfl, ?operands, fun _ => rfl, ⟨rfl, rfl⟩⟩
  case fault => exact Bool.or_true _
  case operands => exact ⟨rfl, rfl, rfl, rfl, rfl⟩

end Sys2Proof.Machine
end

section
/-! PROOFS. The life of a command: its word accepted or refused, its meaning run in the controller's step, and `NOP`
(R73 to R76). -/

namespace Sys2Proof.Machine

/-- The controller's turn on a word that decodes is the command's meaning (R74). -/
theorem State.controllerTurn_command {s : State} {w : Word} {i : Instr} (hseq : s.seq = .busy w)
    (hw : decode w = .ok i) : s.controllerTurn = exec i s := by
  simp [State.controllerTurn, State.runCommand, hseq, hw]

/-- The controller moves where the agenda names it (R152). -/
theorem step_controller_named {s : State} {rest : List Input} (h : s.agenda = .controller :: rest) :
    step s = State.controllerTurn { s with agenda := rest } := by
  simp [step, State.advance, h]

/-- All 32 bits of a fetched word are the command word (log entry 8). -/
theorem State.withFetchWord_toNat (s : State) (w : Word) : s.withFetchWord 32 w.toNat = s.issue w := by
  rw [State.withFetchWord, Nat.mod_eq_of_lt w.isLt, BitVec.ofNat_toNat, BitVec.setWidth_eq]

/-- Settles O6: the step is the controller's turn, and the turn is the command's meaning
(`State.controllerTurn_command`). -/
theorem stepRunsDecodedCommand : Obligations.StepRunsDecodedCommand := by
  intro s w i hw
  refine ⟨fun hseq hs => ?_, fun rest hseq hs => ?_, ?_⟩
  · rw [step_controller hs, State.controllerTurn_command hseq hw]
  · rw [step_controller_named hs, State.controllerTurn_command (s := { s with agenda := rest }) hseq hw]
  · rw [State.withFetchWord_toNat, step_controller_named (rest := s.agenda) rfl]
    exact State.controllerTurn_command (s := s.accept w) rfl hw

/-- A host write to the register space of a busy block is refused (R35, R38). -/
theorem step_write_busy {s : State} {off width : Nat} {v : Word} {rest : List Input}
    (hs : s.agenda = .host (.write (s.cfg.base + off) width v) :: rest) (hbusy : s.regs.status.busy = true) :
    step s = .next (State.hostError { s with agenda := rest } (.write (s.cfg.base + off) width v)) :=
  step_write_refused hs fun ⟨_, hr⟩ => Bool.false_ne_true (hr.notBusy.symm.trans hbusy)

/-- Settles O7: an idle block accepts the word (`step_accept`), a busy one refuses the access (`step_write_busy`). -/
theorem commandAcceptance : Obligations.CommandAcceptance := by
  intro s w rest hs hbusy
  refine ⟨fun hidle => ⟨_, step_accept hs (by rw [hbusy, hidle]; rfl), ?accepted⟩,
    fun v hrun => ⟨_, step_write_busy (off := 0) hs (by rw [hbusy, hrun]; rfl), ?refused⟩⟩
  case accepted =>
    exact ⟨rfl, rfl, rfl, rfl, rfl, rfl, rfl, rfl, rfl, ⟨rfl, rfl, rfl, rfl, rfl⟩, fun _ => rfl,
      rfl, rfl, rfl, rfl, rfl, rfl⟩
  case refused =>
    exact ⟨hrun, rfl, rfl, ⟨rfl, rfl, rfl, rfl, rfl⟩, fun _ => rfl, rfl, rfl, rfl, rfl⟩

/-- A command that ends its work with `finish` leaves what R75 says. -/
theorem Working.finishedWith {s u : State} (h : Working s u) (v : Half) : FinishedWith s (u.finish v) v where
  untouched := { h.untouched with }
  result := rfl
  errcode := rfl
  err := rfl
  done := rfl
  busy := rfl
  fault := by simp [h.status]
  hazard := by simp [h.status]
  seq := rfl
  line := rfl
  frec := h.frec

/-- A word with the opcode of `NOP` decodes as `NOP` only if it is 0 (R61, R63). -/
theorem decode_error_of_nop_opcode {w : Word} (hopc : opcodeField w = 0x00#8) (hne : w ≠ 0x00000000#32) :
    ∃ e, decode w = .error e := by
  have hrow : (⟨0#32, 0xFFFFFFFF#32, fun _ => .nop⟩ : OpcodeRow) ∈ opcodeMap := List.mem_cons_self
  refine decode_error_of_missed_row hrow hopc fun hsel => hne ?_
  have hmasked : w &&& BitVec.allOnes 32 = 0#32 := OpcodeRow.selects_iff.1 hsel
  rwa [BitVec.and_allOnes] at hmasked

/-- Settles O10: `NOP` is `finish(0)` with no work before it, and its row has no operand bit. -/
theorem nopCompletes : Obligations.NopCompletes :=
  ⟨fun s => ⟨_, rfl, (Working.refl s).finishedWith _, ⟨rfl, rfl, rfl, rfl, rfl⟩, fun _ => rfl, ⟨rfl, rfl⟩⟩, rfl,
    fun _ => decode_error_of_nop_opcode⟩

end Sys2Proof.Machine
end

section
/-! PROOFS. The frame of every command (R79): which parts of the state each command may change, said once, and that it
changes no other. -/

namespace Sys2Proof.Machine

/-- The parts of the state commands work on. -/
inductive Part where
  | keyType
  | namebuf
  | idbuf
  | rbbuf
  | crc
  | nvm
  | bus

/-- The part is as before; of the bus, the history and the draws. -/
def Part.Same : Part → State → State → Prop
  | .keyType, s, t => t.regs.keyType = s.regs.keyType
  | .namebuf, s, t => t.regs.namebuf = s.regs.namebuf
  | .idbuf, s, t => t.regs.idbuf = s.regs.idbuf
  | .rbbuf, s, t => t.regs.rbbuf = s.regs.rbbuf
  | .crc, s, t => t.regs.crc = s.regs.crc
  | .nvm, s, t => SameNvm s t
  | .bus, s, t => t.bus.hist = s.bus.hist ∧ t.bus.env = s.bus.env

/-- The parts R79 lets each command change. -/
def mayChange : Instr → Part → Bool
  | .ksGet _, .keyType | .ksGet _, .namebuf | .ksGet _, .idbuf => true
  | .owReadId, .idbuf | .crcSeal, .idbuf => true
  | .owReadId, .rbbuf | .owReadRaw, .rbbuf | .owCloneWrite, .rbbuf => true
  | .crcClear, .crc | .crcUpdate _, .crc => true
  | i, .nvm => writesNvm i
  | .owReset, .bus | .owWriteBit _, .bus | .owReadBit, .bus | .owWriteByte _, .bus | .owReadByte, .bus
  | .owWriteEnable, .bus | .owReadId, .bus | .owReadRaw, .bus | .owCloneWrite, .bus | .owEmulatePoll, .bus => true
  | _, _ => false

theorem mayChange_nvm_eq (i : Instr) : mayChange i .nvm = writesNvm i := by cases i <;> rfl

/-- `t` differs from `s` at most in the parts that `may` names. -/
def DiffersIn (may : Part → Bool) (s t : State) : Prop := ∀ p, may p = false → p.Same s t

theorem DiffersIn.refl (may : Part → Bool) (s : State) : DiffersIn may s s := fun p _ => by
  cases p with
  | nvm => exact fun _ => rfl
  | bus => exact ⟨rfl, rfl⟩
  | _ => rfl

/-! ## What each operation on the state may change -/

section
variable {may : Part → Bool} {s u : State} (h : DiffersIn may s u)
include h

theorem DiffersIn.finish (v : Half) : DiffersIn may s (u.finish v) := fun p hp => by
  cases p <;> exact h _ hp

theorem DiffersIn.raise (e : CmdError) : DiffersIn may s (u.raise e) := fun p hp => by
  cases p <;> exact h _ hp

theorem DiffersIn.setBus (hmay : may .bus = true) (b : Bus) : DiffersIn may s (u.setBus b) := fun p hp => by
  cases p with
  | bus => simp [hmay] at hp
  | _ => exact h _ hp

theorem DiffersIn.setKeyType (hmay : may .keyType = true) (t : Byte) : DiffersIn may s (u.setKeyType t) :=
  fun p hp => by
    cases p with
    | keyType => simp [hmay] at hp
    | _ => exact h _ hp

theorem DiffersIn.setNamebuf (hmay : may .namebuf = true) (nm : Vector Byte 32) : DiffersIn may s (u.setNamebuf nm) :=
  fun p hp => by
    cases p with
    | namebuf => simp [hmay] at hp
    | _ => exact h _ hp

theorem DiffersIn.setIdbuf (hmay : may .idbuf = true) (id : Vector Byte 8) : DiffersIn may s (u.setIdbuf id) :=
  fun p hp => by
    cases p with
    | idbuf => simp [hmay] at hp
    | _ => exact h _ hp

theorem DiffersIn.setRbbuf (hmay : may .rbbuf = true) (rb : Vector Byte 8) : DiffersIn may s (u.setRbbuf rb) :=
  fun p hp => by
    cases p with
    | rbbuf => simp [hmay] at hp
    | _ => exact h _ hp

theorem DiffersIn.setCrc (hmay : may .crc = true) (c : Byte) : DiffersIn may s (u.setCrc c) := fun p hp => by
  cases p with
  | crc => simp [hmay] at hp
  | _ => exact h _ hp

theorem DiffersIn.writeNvm (hmay : may .nvm = true) (cells : List Host.Cell) : DiffersIn may s (u.writeNvm cells) :=
  fun p hp => by
    cases p with
    | nvm => simp [hmay] at hp
    | _ => exact h _ hp

theorem DiffersIn.carryOut (hmay : may .nvm = true) (r : Except CmdError StorePlan) :
    DiffersIn may s (u.carryOut r) := by
  cases r with
  | ok plan => exact (h.writeNvm hmay _).finish _
  | error e => exact h.raise e

section
variable (hbus : may .bus = true) (hrbbuf : may .rbbuf = true)
include hbus hrbbuf

theorem DiffersIn.readRomRaw : DiffersIn may s u.readRomRaw.2 := by
  unfold State.readRomRaw
  split
  · exact (h.setBus hbus _).setRbbuf hrbbuf _
  · exact h.setBus hbus _

theorem DiffersIn.cloneVerify : DiffersIn may s u.cloneVerify := by
  unfold State.cloneVerify
  dsimp only
  split_ifs
  · exact (h.readRomRaw hbus hrbbuf).raise _
  · exact (h.readRomRaw hbus hrbbuf).finish _
  · exact (h.readRomRaw hbus hrbbuf).raise _

end

theorem DiffersIn.checkIdentity (hmay : may .idbuf = true) : DiffersIn may s u.checkIdentity := by
  unfold State.checkIdentity
  dsimp only
  split_ifs
  · exact h.raise _
  · exact h.raise _
  · exact (h.setIdbuf hmay _).finish _

end

/-! ## What each command may change -/

/-- R79: a command changes no part but those `mayChange` names. -/
theorem exec_differsIn {i : Instr} {s t : State} (h : exec i s = .next t) : DiffersIn (mayChange i) s t := by
  have same := DiffersIn.refl (mayChange i) s
  cases i with
  | nop | ksCount => cases h; exact same.finish _
  | owReset | owWriteBit | owReadBit | owWriteByte | owReadByte | owWriteEnable =>
    cases h
    exact (same.setBus rfl _).finish _
  | owReadId =>
    cases h
    have same := same.readRomRaw rfl rfl
    split
    · exact same.checkIdentity rfl
    · exact same.raise _
  | owReadRaw =>
    cases h
    have same := same.readRomRaw rfl rfl
    split
    · exact same.finish _
    · exact same.raise _
  | owCloneWrite =>
    cases h
    have same := same.setBus rfl (s.bus.cloneSeq s.cfg s.regs.idbuf).2
    split
    · exact same.cloneVerify rfl rfl
    · exact same.raise _
  | owEmulatePoll =>
    cases h
    split
    · exact (same.setBus rfl _).finish _
    · exact same
    · exact same
  | crcClear | crcUpdate => cases h; exact (same.setCrc rfl _).finish _
  | crcSeal => cases h; exact (same.setIdbuf rfl _).finish _
  | ksGet n =>
    cases h
    split
    · exact (((same.setKeyType rfl _).setNamebuf rfl _).setIdbuf rfl _).finish _
    · exact same.raise _
  | ksInsert | ksDelete | ksSetCount => cases h; exact same.carryOut rfl _
  | ksResolve n =>
    cases h
    split
    · exact same.finish _
    · exact same.raise _

theorem Completes.untouched {s t : State} (h : Completes s t) : Untouched s t := by
  cases h with
  | finish work v => exact { work.untouched with }
  | raise work e => exact { work.untouched with }

theorem exec_untouched {i : Instr} {s t : State} (h : exec i s = .next t) : Untouched s t := by
  obtain ⟨-, rfl⟩ | ht := exec_cases h
  · exact (Working.refl t).untouched
  · exact ht.untouched

/-! ## A command that reports an error -/

/-- A read identity that fails a check is not taken over (R121). -/
theorem State.checkIdentity_idbuf_of_err {u : State} (h : u.checkIdentity.regs.status.err = true) :
    u.checkIdentity.regs.idbuf = u.regs.idbuf := by
  unfold State.checkIdentity at h ⊢
  dsimp only at h ⊢
  split_ifs at h ⊢
  · rfl
  · rfl
  · cases h

@[simp] theorem State.readRomRaw_idbuf (s : State) : s.readRomRaw.2.regs.idbuf = s.regs.idbuf := by
  unfold State.readRomRaw
  split <;> rfl

theorem owReadId_idbuf_of_err {s t : State} (h : exec .owReadId s = .next t) (herr : t.regs.status.err = true) :
    t.regs.idbuf = s.regs.idbuf := by
  cases h
  cases hseen : s.readRomRaw.1 with
  | false => simp
  | true =>
    simp only [hseen, if_true] at herr
    exact (State.checkIdentity_idbuf_of_err herr).trans s.readRomRaw_idbuf

/-- A plan that failed its checks writes nothing (R82). -/
theorem carryOut_nvm_of_err {s : State} {r : Except CmdError StorePlan} (h : (s.carryOut r).regs.status.err = true) :
    (s.carryOut r).nvm = s.nvm := by
  cases r with
  | ok plan => cases h
  | error e => rfl

/-- A command that reports an error has written no NVM byte (R147). -/
theorem exec_sameNvm_of_err {i : Instr} {s t : State} (h : exec i s = .next t) (herr : t.regs.status.err = true) :
    SameNvm s t := by
  cases hw : writesNvm i with
  | false => exact exec_differsIn h .nvm ((mayChange_nvm_eq i).trans hw)
  | true =>
    cases i with
    | ksInsert | ksDelete | ksSetCount => cases h; exact fun a => by rw [carryOut_nvm_of_err herr]
    | _ => cases hw

/-! ## The obligation -/

section
variable {i : Instr}

theorem mayChange_keyType_namebuf (h : ∀ n, i ≠ .ksGet n) :
    mayChange i .keyType = false ∧ mayChange i .namebuf = false := by
  cases i with
  | ksGet n => exact absurd rfl (h n)
  | _ => exact ⟨rfl, rfl⟩

theorem mayChange_idbuf (hget : ∀ n, i ≠ .ksGet n) (hread : i ≠ .owReadId) (hseal : i ≠ .crcSeal) :
    mayChange i .idbuf = false := by
  cases i with
  | ksGet n => exact absurd rfl (hget n)
  | owReadId => exact absurd rfl hread
  | crcSeal => exact absurd rfl hseal
  | _ => rfl

theorem mayChange_rbbuf (hid : i ≠ .owReadId) (hraw : i ≠ .owReadRaw) (hclone : i ≠ .owCloneWrite) :
    mayChange i .rbbuf = false := by
  cases i with
  | owReadId => exact absurd rfl hid
  | owReadRaw => exact absurd rfl hraw
  | owCloneWrite => exact absurd rfl hclone
  | _ => rfl

theorem mayChange_crc (hclear : i ≠ .crcClear) (hupdate : ∀ v, i ≠ .crcUpdate v) : mayChange i .crc = false := by
  cases i with
  | crcClear => exact absurd rfl hclear
  | crcUpdate v => exact absurd rfl (hupdate v)
  | _ => rfl

theorem mayChange_nvm (hinsert : i ≠ .ksInsert) (hdelete : ∀ n, i ≠ .ksDelete n) (hset : ∀ n, i ≠ .ksSetCount n) :
    mayChange i .nvm = false := by
  cases i with
  | ksInsert => exact absurd rfl hinsert
  | ksDelete n => exact absurd rfl (hdelete n)
  | ksSetCount n => exact absurd rfl (hset n)
  | _ => rfl

end

/-- Settles O12: each clause is a column of `mayChange` (`exec_differsIn`); the error clauses are
`owReadId_idbuf_of_err` and `exec_sameNvm_of_err`. -/
theorem commandFrame : Obligations.CommandFrame := by
  intro i s t h
  have frame := exec_differsIn h
  refine ⟨exec_untouched h, fun hget => ?_, fun hget hread hseal => frame .idbuf (mayChange_idbuf hget hread hseal), ?_,
    fun hid hraw hclone => frame .rbbuf (mayChange_rbbuf hid hraw hclone),
    fun hclear hupdate => frame .crc (mayChange_crc hclear hupdate),
    fun hinsert hdelete hset => frame .nvm (mayChange_nvm hinsert hdelete hset), fun hi => ?_, exec_sameNvm_of_err h⟩
  · obtain ⟨hkeyType, hnamebuf⟩ := mayChange_keyType_namebuf hget
    exact ⟨frame .keyType hkeyType, frame .namebuf hnamebuf⟩
  · rintro rfl
    exact owReadId_idbuf_of_err h
  · suffices hbus : mayChange i .bus = false from ⟨(frame .bus hbus).1, (frame .bus hbus).2⟩
    obtain rfl | rfl | ⟨v, rfl⟩ | rfl | rfl | ⟨n, rfl⟩ | rfl | ⟨n, rfl⟩ | ⟨n, rfl⟩ | ⟨n, rfl⟩ := hi <;> rfl

end Sys2Proof.Machine
end

section
/-! PROOFS. A pass of `OW_EMULATE_POLL` (R128 to R133): the slots of a transaction one by one, what a pass does once
its master stops or resets without end, and so which commands end their step (R74, R80). -/

namespace Sys2Proof.Machine

/-! ## Runs with actions before them -/

@[simp] theorem EmuRun.after_actions (r : EmuRun) (as : List SlaveAction) :
    (r.after as).actions = as ++ r.actions := rfl
@[simp] theorem EmuRun.after_rest (r : EmuRun) (as : List SlaveAction) : (r.after as).rest = r.rest := rfl
@[simp] theorem EmuRun.after_ending (r : EmuRun) (as : List SlaveAction) : (r.after as).ending = r.ending := rfl

@[simp] theorem EmuRun.after_nil (r : EmuRun) : r.after [] = r := rfl

@[simp] theorem EmuRun.after_after (r : EmuRun) (as bs : List SlaveAction) :
    (r.after as).after bs = r.after (bs ++ as) := by
  simp [EmuRun.after]

/-! ## One event of the master -/

section
variable (c : Config) (id : Vector Byte 8)

/-- A slot of the command byte that is not its last (R129). -/
theorem emuRun_command_slot {i : Nat} (hi : i < 7) (cmd : Byte) {x : MasterEvent} (hx : x = .short ∨ x = .long)
    (rest : List MasterEvent) : ∃ cmd', emuRun c id (.command i cmd) (x :: rest)
      = (emuRun c id (.command (i + 1) cmd') rest).after [.saw (masterSeen x)] := by
  obtain rfl | rfl := hx
  · exact ⟨commandWith cmd i true, by simp [emuRun, hi, masterSeen]⟩
  · exact ⟨commandWith cmd i false, by simp [emuRun, hi, masterSeen]⟩

/-- An identity slot that is not the last is answered with its bit (R130). -/
theorem emuRun_identity_slot {k : Nat} (hk : k < 63) {x : MasterEvent} (hx : x = .short ∨ x = .long)
    (rest : List MasterEvent) : emuRun c id (.identity k) (x :: rest)
      = (emuRun c id (.identity (k + 1)) rest).after [.saw (masterSeen x), .bit (identityBit id k)] := by
  obtain rfl | rfl := hx <;> simp [emuRun, hk, masterSeen]

/-- A master that sends nothing more (R133). -/
theorem emuRun_silent (p : EmuPhase) {tail : List MasterEvent} (h : tail = [] ∨ ∃ r, tail = .silent :: r) :
    ∃ rest, emuRun c id p tail = emuSilence c rest := by
  obtain rfl | ⟨r, rfl⟩ := h
  · exact ⟨[], by cases p <;> simp [emuRun]⟩
  · exact ⟨r, by cases p <;> simp [emuRun]⟩

/-- A master that resets without end (R132, log entry 4). -/
theorem emuRun_resets (p : EmuPhase) (r : List MasterEvent) : (emuRun c id p (.resets :: r)).ending = .endless := by
  cases p <;> simp [emuRun]

end

/-! ## The slots of a transaction -/

/-- What the block does in identity slots that are answered with these bits (R130). -/
def answerActions (slots : List MasterEvent) (bits : List Bool) : List SlaveAction :=
  ((slots.zip bits).map fun p => [.saw (masterSeen p.1), .bit p.2]).flatten

theorem answerActions_events (slots : List MasterEvent) (bits : List Bool) :
    (answerActions slots bits).map SlaveAction.event
      = ((slots.zip bits).map fun p => [Event.slaveSaw (masterSeen p.1), Event.slaveBit p.2]).flatten := by
  simp [answerActions, List.map_flatten, Function.comp_def, SlaveAction.event]

theorem bitsOfBytes_length (bytes : List Byte) : (bitsOfBytes bytes).length = 8 * bytes.length := by
  induction bytes with
  | nil => rfl
  | cons v rest ih =>
    simp [bitsOfBytes, bitsOfByte, ih]
    omega

/-- The identity bits from bit `k` on begin with bit `k`. -/
theorem identityBits_drop (id : Vector Byte 8) {k : Nat} (hk : k < 64) :
    (bitsOfBytes id.toList).drop k = identityBit id k :: (bitsOfBytes id.toList).drop (k + 1) := by
  have hlen : k < (bitsOfBytes id.toList).length := by simpa [bitsOfBytes_length] using hk
  rw [List.drop_eq_getElem_cons hlen, identityBit, List.getD_eq_getElem _ _ hlen]

section
variable (c : Config) (id : Vector Byte 8) {slots : List MasterEvent} (hslots : ∀ x ∈ slots, x = .short ∨ x = .long)
  (tail : List MasterEvent)
include hslots

/-- Slots that do not complete the command byte are only seen (R129). -/
theorem emuRun_command_slots {i : Nat} (hi : i + slots.length < 8) (cmd : Byte) :
    ∃ cmd', emuRun c id (.command i cmd) (slots ++ tail)
      = (emuRun c id (.command (i + slots.length) cmd') tail).after (slots.map fun x => .saw (masterSeen x)) := by
  induction slots generalizing i cmd with
  | nil => exact ⟨cmd, rfl⟩
  | cons x rest ih =>
    rw [List.forall_mem_cons] at hslots
    rw [List.length_cons] at hi
    obtain ⟨cmd', hx⟩ := emuRun_command_slot c id (i := i) (by omega) cmd hslots.1 (rest ++ tail)
    obtain ⟨cmd'', hrest⟩ := ih hslots.2 (i := i + 1) (by omega) cmd'
    exact ⟨cmd'', by simp [hx, hrest, Nat.add_assoc, Nat.add_comm 1]⟩

/-- Identity slots, but for the last of the 64, are answered in order (R130). -/
theorem emuRun_identity_slots {k : Nat} (hk : k + slots.length < 64) :
    emuRun c id (.identity k) (slots ++ tail)
      = (emuRun c id (.identity (k + slots.length)) tail).after
          (answerActions slots ((bitsOfBytes id.toList).drop k)) := by
  induction slots generalizing k with
  | nil => rfl
  | cons x rest ih =>
    rw [List.forall_mem_cons] at hslots
    rw [List.length_cons] at hk
    rw [List.cons_append, emuRun_identity_slot c id (by omega) hslots.1, ih hslots.2 (by omega),
      identityBits_drop id (k := k) (by omega)]
    simp [answerActions, Nat.add_assoc, Nat.add_comm 1]

end

/-- The command byte 0x33 leads to the identity (R129). -/
theorem emuRun_readRom (c : Config) (id : Vector Byte 8) (rest : List MasterEvent) :
    emuRun c id (.command 0 0#8) ((bitsOfByte 0x33#8).map slotFor ++ rest)
      = (emuRun c id (.identity 0) rest).after
          (((bitsOfByte 0x33#8).map slotFor).map fun x => .saw (masterSeen x)) := rfl

/-- An unfinished transaction shows its slots, and goes on with what follows them (R129, R130). -/
theorem emuRun_unfinished (c : Config) (id : Vector Byte 8) {pre : List MasterEvent} (h : Unfinished pre)
    (tail : List MasterEvent) : ∃ p as, as.map SlaveAction.event = transactionEvents id pre ∧
      emuRun c id (.command 0 0#8) (pre ++ tail) = (emuRun c id p tail).after as := by
  obtain hshort | ⟨more, rfl, hmore⟩ := h.short
  · obtain ⟨cmd, hrun⟩ := emuRun_command_slots c id h.plain tail (i := 0) (by omega) 0#8
    refine ⟨_, _, ?_, hrun⟩
    simp [transactionEvents, List.take_of_length_le hshort.le, List.drop_of_length_le hshort.le, SlaveAction.event,
      Function.comp_def]
  · have hplain : ∀ x ∈ more, x = .short ∨ x = .long := fun x hx => h.plain x (List.mem_append_right _ hx)
    refine ⟨_, _, ?_, by
      rw [List.append_assoc, emuRun_readRom, emuRun_identity_slots c id hplain tail (by omega), EmuRun.after_after]⟩
    rw [List.map_append, List.drop_zero, answerActions_events]
    rfl

/-! ## A pass -/

/-- The end of a pass that saw a reset is that of its transactions (R128). -/
theorem emuPass_of_reset {e : Env} {env : Env} (h : env.drawSample = (.reset, e)) (c : Config) (id : Vector Byte 8) :
    emuPass c id env = ((emuRun c id (.command 0 0#8) e.masterAhead).after emuRestart,
      e.masterLeft (emuRun c id (.command 0 0#8) e.masterAhead).rest) := by
  simp [emuPass, h]

section
variable {s : State}

/-- A pass with a result ends with it (R128). -/
theorem exec_owEmulatePoll_code {v : Half} (h : (emuPass s.cfg s.regs.idbuf s.bus.env).1.ending = .code v) :
    exec .owEmulatePoll s = .next ((s.setBus (s.bus.emulated (emuPass s.cfg s.regs.idbuf s.bus.env).1.actions
      (emuPass s.cfg s.regs.idbuf s.bus.env).2)).finish v) := by
  simp [exec, execOwEmulatePoll, h]

/-- A pass without a result leaves the block as it is (log entries 4 and 9). -/
theorem exec_owEmulatePoll_stuck (h : ∀ v, (emuPass s.cfg s.regs.idbuf s.bus.env).1.ending ≠ .code v) :
    exec .owEmulatePoll s = .next s := by
  cases hend : (emuPass s.cfg s.regs.idbuf s.bus.env).1.ending with
  | code v => exact absurd hend (h v)
  | waiting | endless => simp [exec, execOwEmulatePoll, hend]

/-- A pass without a result, whatever the identity, is still without one after any host access: the access changes
neither the draws nor the parameters (R39, log entry 5). -/
theorem exec_owEmulatePoll_hostAccess (h : ∀ id v, (emuPass s.cfg id s.bus.env).1.ending ≠ .code v) :
    exec .owEmulatePoll s = .next s ∧ ∀ a, exec .owEmulatePoll (s.hostAccess a) = .next (s.hostAccess a) := by
  refine ⟨exec_owEmulatePoll_stuck (h _), fun a => exec_owEmulatePoll_stuck ?_⟩
  obtain ⟨hcfg, hbus, -, -⟩ := s.hostAccess_frame a
  rw [hcfg, hbus]
  exact h _

end

/-! ## A master that stops -/

section
variable {s : State} {e : Env} {pre tail : List MasterEvent} (hlook : s.bus.env.drawSample = (.reset, e))
  (hahead : e.masterAhead = pre ++ tail) (hpre : Unfinished pre)
include hlook hahead hpre

/-- A pass goes out as its transaction does after the slots of an unfinished one (R128). -/
theorem emuPass_unfinished (id : Vector Byte 8) : ∃ p as, as.map SlaveAction.event = transactionEvents id pre ∧
    (emuPass s.cfg id s.bus.env).1 = (emuRun s.cfg id p tail).after (emuRestart ++ as) := by
  obtain ⟨p, as, has, hrun⟩ := emuRun_unfinished s.cfg id hpre tail
  exact ⟨p, as, has, by rw [emuPass_of_reset hlook, hahead, hrun, EmuRun.after_after]⟩

theorem emuPass_waiting (hstop : tail = [] ∨ ∃ r, tail = .silent :: r) (hnone : s.cfg.emuSlotTimeout = none)
    (id : Vector Byte 8) : (emuPass s.cfg id s.bus.env).1.ending = .waiting := by
  obtain ⟨p, as, -, hpass⟩ := emuPass_unfinished hlook hahead hpre id
  obtain ⟨rest, hrun⟩ := emuRun_silent s.cfg id p hstop
  simp [hpass, hrun, emuSilence, hnone]

theorem emuPass_endless (hresets : ∃ r, tail = .resets :: r) (id : Vector Byte 8) :
    (emuPass s.cfg id s.bus.env).1.ending = .endless := by
  obtain ⟨p, as, -, hpass⟩ := emuPass_unfinished hlook hahead hpre id
  obtain ⟨r, rfl⟩ := hresets
  rw [hpass, EmuRun.after_ending, emuRun_resets]

theorem emuPass_timeout (hstop : tail = [] ∨ ∃ r, tail = .silent :: r) {d : Nat}
    (hsome : s.cfg.emuSlotTimeout = some d) (id : Vector Byte 8) :
    (emuPass s.cfg id s.bus.env).1.ending = .code 0x0003#16 ∧
    (emuPass s.cfg id s.bus.env).1.actions.map SlaveAction.event
      = restartEvents ++ transactionEvents id pre ++ [.slaveSaw .timeout] := by
  obtain ⟨p, as, has, hpass⟩ := emuPass_unfinished hlook hahead hpre id
  obtain ⟨rest, hrun⟩ := emuRun_silent s.cfg id p hstop
  simp [hpass, hrun, emuSilence, hsome, has, emuRestart, restartEvents, SlaveAction.event]

end

/-- Settles O33: the pass waits (`emuPass_waiting`), times out (`emuPass_timeout`) or never ends (`emuPass_endless`). -/
theorem emulateMasterStops : Obligations.EmulateMasterStops := by
  intro s e pre tail hlook hahead hpre
  refine ⟨fun hstop => ⟨fun hnone => ?_, fun d hsome => ?_⟩, fun hresets => ?_⟩
  · exact exec_owEmulatePoll_hostAccess fun id v => by simp [emuPass_waiting hlook hahead hpre hstop hnone id]
  · obtain ⟨hend, hevents⟩ := emuPass_timeout hlook hahead hpre hstop hsome s.regs.idbuf
    refine ⟨_, exec_owEmulatePoll_code hend, ((Working.refl s).setBus (by simp)).finishedWith _, ?_,
      ⟨rfl, rfl, rfl, rfl, rfl⟩, fun _ => rfl⟩
    simp [State.setBus, hevents]
  · exact exec_owEmulatePoll_hostAccess fun id v => by simp [emuPass_endless hlook hahead hpre hresets id]

/-! ## Passes that never end -/

section
variable {c : Config} {id : Vector Byte 8}

/-- Transactions without a result wait with no timeout set, or have resets without end ahead (R132, R133). -/
theorem emuRun_cases (p : EmuPhase) (events : List MasterEvent) :
    (∃ v, (emuRun c id p events).ending = .code v) ∨ c.emuSlotTimeout = none ∨ .resets ∈ events := by
  fun_induction emuRun c id p events with
  | case1 | case2 => cases h : c.emuSlotTimeout <;> simp [emuSilence, h]
  | case3 => exact .inr (.inr List.mem_cons_self)
  | case7 | case10 | case12 | case14 => exact .inl ⟨_, rfl⟩
  | case4 | case5 | case6 | case8 | case9 | case11 | case13 =>
    rename_i ih
    exact ih.imp_right (.imp_right (List.mem_cons_of_mem _))

theorem emuPass_cases (env : Env) : (∃ v, (emuPass c id env).1.ending = .code v) ∨ c.emuSlotTimeout = none ∨
    .resets ∈ env.drawSample.2.masterAhead := by
  unfold emuPass
  dsimp only
  split_ifs
  · exact emuRun_cases _ _
  · exact .inl ⟨_, rfl⟩

end

/-- `OW_EMULATE_POLL` completes, or its pass never ends (R128, R132, R133). -/
theorem owEmulatePoll_ends (s : State) : ∃ t, exec .owEmulatePoll s = .next t ∧
    (Completes s t ∨ (t = s ∧ (s.cfg.emuSlotTimeout = none ∨ .resets ∈ s.bus.env.drawSample.2.masterAhead))) := by
  by_cases h : ∃ v, (emuPass s.cfg s.regs.idbuf s.bus.env).1.ending = .code v
  · obtain ⟨v, hv⟩ := h
    exact ⟨_, exec_owEmulatePoll_code hv, .inl (.finish ((Working.refl s).setBus (by simp)) v)⟩
  · exact ⟨s, exec_owEmulatePoll_stuck (not_exists.1 h), .inr ⟨rfl, (emuPass_cases _).resolve_left h⟩⟩

/-! ## Every command answers -/

theorem exec_answers (i : Instr) (s : State) : ∃ t, exec i s = .next t := by
  cases i <;> exact ⟨_, rfl⟩

theorem State.controllerTurn_answers (s : State) : ∃ t, s.controllerTurn = .next t := by
  unfold State.controllerTurn State.runCommand
  split
  · exact ⟨s, rfl⟩
  · split
    · exact exec_answers _ s
    · exact ⟨_, rfl⟩

/-- No step of the block stops it (log entry 18). -/
theorem step_answers (s : State) : ∃ t, step s = .next t := by
  obtain ⟨-, h⟩ | ⟨rest, -, h⟩ | ⟨a, rest, -, h⟩ | ⟨cut, rest, -, h⟩ := step_cases s <;> rw [h]
  · exact s.controllerTurn_answers
  · exact State.controllerTurn_answers _
  · exact ⟨_, rfl⟩
  · exact ⟨_, rfl⟩

theorem Completes.done {s t : State} (h : Completes s t) :
    t.seq = .idle ∧ t.regs.status.busy = false ∧ t.regs.status.done = true := by
  cases h <;> exact ⟨rfl, rfl, rfl⟩

/-- Settles O13: a command completes (`exec_cases`), but for the passes of `owEmulatePoll_ends`. -/
theorem everyCommandAnswers : Obligations.EveryCommandAnswers := by
  refine ⟨fun i s => ?_, step_answers⟩
  by_cases hi : i = .owEmulatePoll
  · subst hi
    obtain ⟨t, ht, hends⟩ := owEmulatePoll_ends s
    exact ⟨t, ht, hends.imp Completes.done fun hstuck => ⟨rfl, hstuck⟩⟩
  · obtain ⟨t, ht⟩ := exec_answers i s
    exact ⟨t, ht, .inl ((exec_cases ht).resolve_left fun hpass => hi hpass.1).done⟩

end Sys2Proof.Machine
end

section
/-! PROOFS. The walk of R81 as the slots it visits: what it answers and where it faults, that it counts live slots, and
the faults of `logical_end` and of the neighbour analysis (R81 to R83, R86, R97, R102, R146). -/

namespace Sys2Proof.Machine

/-! ## The visited slots (R81) -/

section
variable {m : Memory} {nslots : Nat}

/-- A walk has passed at least as many slots as it has counted. -/
theorem Visited.count_le {p k : Nat} (v : Visited m nslots p k) : k ≤ p := by
  induction v with
  | start => exact le_rfl
  | skip _ _ _ _ ih => omega
  | count _ _ _ ih => omega

/-- Where the slots below `h` are live, the walk counts each of them and comes to `h`. -/
theorem visited_of_live {h : Nat} (hle : h ≤ nslots) (live : ∀ q, q < h → ¬ Tomb m q) : Visited m nslots h h := by
  induction h with
  | zero => exact .start
  | succ h ih =>
    exact .count (ih (by omega) fun q hq => live q (by omega)) hle (live h (Nat.lt_succ_self h))

/-- Where the slots below `h` are live, the walk is not past `h`, or it has gone from `h` on: over the run there, if `h`
is tombstoned. -/
theorem Visited.of_live_below {h p k : Nat} (v : Visited m nslots p k) (live : ∀ q, q < h → ¬ Tomb m q) :
    (p ≤ h ∧ k = p) ∨
    (h < p ∧ h ≤ k ∧ (Tomb m h → runlen (markerAt m h) ≠ 0 ∧ h + runlen (markerAt m h) ≤ p)) := by
  induction v with
  | start => exact .inl ⟨Nat.zero_le h, rfl⟩
  | @skip p k _ _ ht hrun ih =>
    right
    obtain ⟨hph, hk⟩ | ⟨hhp, hk, hpast⟩ := ih
    · obtain rfl : p = h := hph.eq_of_not_lt fun hlt => live p hlt ht
      exact ⟨by omega, by omega, fun _ => ⟨hrun, le_rfl⟩⟩
    · exact ⟨by omega, hk, fun hth => ⟨(hpast hth).1, (hpast hth).2.trans (Nat.le_add_right p _)⟩⟩
  | @count p k _ _ ht ih =>
    obtain ⟨hph, hk⟩ | ⟨hhp, hk, hpast⟩ := ih
    · obtain rfl | hlt := hph.eq_or_lt
      · exact .inr ⟨by omega, by omega, fun hth => absurd hth ht⟩
      · exact .inl ⟨hlt, by omega⟩
    · exact .inr ⟨by omega, by omega, fun hth => ⟨(hpast hth).1, (hpast hth).2.trans (Nat.le_add_right p 1)⟩⟩

end

/-! ## What the walk answers (R81, R82) -/

section
variable {m : Memory} {nslots i p : Nat} (n k : Nat)

theorem resolveFrom_overrun (hp : nslots ≤ p) : resolveFrom m nslots i n p k = .error (.tableOverrun p) := by
  cases n with
  | zero => rfl
  | succ n => rw [resolveFrom, if_pos hp]

theorem resolveFrom_corrupt (hp : p < nslots) (ht : Tomb m p) (hrun : runlen (markerAt m p) = 0) :
    resolveFrom m nslots i (n + 1) p k = .error (.corruptMarker p) := by
  rw [Tomb] at ht
  rw [resolveFrom, if_neg hp.not_ge, if_pos ht, if_pos hrun]

end

/-- The answers of the walk to index `i`, by the slots it visits: the live slot with `i` live slots below it, or the
fault of a slot it comes to no later. -/
def WalkAnswer (m : Memory) (nslots i : Nat) : Except CmdError Nat → Prop
  | .ok p => Visited m nslots p i ∧ p < nslots ∧ ¬ Tomb m p
  | .error e => ∃ p k, Visited m nslots p k ∧ k ≤ i ∧
      ((nslots ≤ p ∧ e = .tableOverrun p) ∨
       (p < nslots ∧ Tomb m p ∧ runlen (markerAt m p) = 0 ∧ e = .corruptMarker p))

section
variable {m : Memory} {nslots i : Nat}

/-- From a visited slot on, with passes enough to leave the table, the loop of R81 gives an answer of the walk. -/
theorem resolveFrom_answer {n p k : Nat} (v : Visited m nslots p k) (hk : k ≤ i) (hn : nslots < n + p) :
    WalkAnswer m nslots i (resolveFrom m nslots i n p k) := by
  induction n generalizing p k with
  | zero =>
    have hp : nslots ≤ p := by omega
    exact ⟨p, k, v, hk, .inl ⟨hp, rfl⟩⟩
  | succ n ih =>
    by_cases hp : nslots ≤ p
    · rw [resolveFrom_overrun _ _ hp]
      exact ⟨p, k, v, hk, .inl ⟨hp, rfl⟩⟩
    · have hp : p < nslots := not_le.1 hp
      by_cases ht : Tomb m p
      · by_cases hrun : runlen (markerAt m p) = 0
        · rw [resolveFrom_corrupt _ _ hp ht hrun]
          exact ⟨p, k, v, hk, .inr ⟨hp, ht, hrun, rfl⟩⟩
        · rw [resolveFrom_skip hp _ _ ht hrun]
          exact ih (v.skip hp ht hrun) hk (by omega)
      · obtain rfl | hki := eq_or_ne k i
        · rw [resolveFrom_found hp _ ht]
          exact ⟨v, hp, ht⟩
        · rw [resolveFrom_count hp _ _ ht hki]
          exact ih (v.count hp ht) (by omega) (by omega)

/-- The walk to index `i` goes on from each slot it visits with at most `i` live slots below it. -/
theorem Visited.resolve_eq {p k : Nat} (v : Visited m nslots p k) (hk : k ≤ i) :
    ∃ n, nslots < n + p ∧ resolve m nslots i = resolveFrom m nslots i n p k := by
  induction v with
  | start => exact ⟨nslots + 1, Nat.lt_succ_self nslots, rfl⟩
  | skip _ hp ht hrun ih =>
    obtain ⟨n, hn, heq⟩ := ih hk
    cases n with
    | zero => omega
    | succ n => exact ⟨n, by omega, heq.trans (resolveFrom_skip hp _ _ ht hrun)⟩
  | count _ hp ht ih =>
    obtain ⟨n, hn, heq⟩ := ih (by omega)
    cases n with
    | zero => omega
    | succ n => exact ⟨n, by omega, heq.trans (resolveFrom_count hp _ _ ht (by omega))⟩

/-- A visited slot that ends the walk gives its answer. -/
theorem WalkAnswer.resolve_eq {r : Except CmdError Nat} (h : WalkAnswer m nslots i r) : resolve m nslots i = r := by
  cases r with
  | ok p =>
    obtain ⟨v, hp, ht⟩ := h
    obtain ⟨n, hn, heq⟩ := v.resolve_eq le_rfl
    cases n with
    | zero => omega
    | succ n => exact heq.trans (resolveFrom_found hp _ ht)
  | error e =>
    obtain ⟨p, k, v, hk, hfault⟩ := h
    obtain ⟨n, hn, heq⟩ := v.resolve_eq hk
    obtain ⟨hp, rfl⟩ | ⟨hp, ht, hrun, rfl⟩ := hfault
    · exact heq.trans (resolveFrom_overrun _ _ hp)
    · cases n with
      | zero => omega
      | succ n => exact heq.trans (resolveFrom_corrupt _ _ hp ht hrun)

/-- `resolve` by the slots the walk visits. -/
theorem resolve_eq_iff {r : Except CmdError Nat} : resolve m nslots i = r ↔ WalkAnswer m nslots i r :=
  ⟨fun h => h ▸ resolveFrom_answer .start (Nat.zero_le i) (Nat.lt_succ_self nslots), WalkAnswer.resolve_eq⟩

/-- The walk to a greater index goes on above the slot of a smaller one (R102). -/
theorem resolve_strictMono {j p q : Nat} (hp : resolve m nslots i = .ok p) (hq : resolve m nslots j = .ok q)
    (hij : i < j) : p < q := by
  obtain ⟨v, hlt, hlive⟩ := resolve_eq_iff.1 hp
  obtain ⟨n, -, heq⟩ := (v.count hlt hlive).resolve_eq hij
  exact (resolveFrom_ok (heq.symm.trans hq)).1

/-- The logical end is 0 in an empty store, and else the slot after the one the walk to the last index answers (R83). -/
theorem logicalEnd_ok_cases {le : Nat} (h : logicalEnd m nslots = .ok le) :
    (liveCount m = 0 ∧ le = 0) ∨
    (0 < liveCount m ∧ ∃ p, le = p + 1 ∧ Visited m nslots p (liveCount m - 1) ∧ p < nslots ∧ ¬ Tomb m p) := by
  unfold logicalEnd at h
  split at h
  · next hzero =>
    cases h
    exact .inl ⟨hzero, rfl⟩
  · next hpos =>
    split at h
    · next p hp =>
      cases h
      exact .inr ⟨Nat.pos_of_ne_zero hpos, p, rfl, resolve_eq_iff.1 hp⟩
    · cases h

theorem logicalEnd_error_iff {e : CmdError} :
    logicalEnd m nslots = .error e ↔ 0 < liveCount m ∧ resolve m nslots (liveCount m - 1) = .error e := by
  unfold logicalEnd
  split
  · next hzero => simp [hzero]
  · next hpos =>
    have hpos := Nat.pos_of_ne_zero hpos
    split <;> simp_all

/-- The counter of a table with a logical end is at most that end. -/
theorem liveCount_le_of_logicalEnd {le : Nat} (h : logicalEnd m nslots = .ok le) : liveCount m ≤ le := by
  obtain ⟨hzero, rfl⟩ | ⟨hpos, p, rfl, v, -, -⟩ := logicalEnd_ok_cases h
  · exact hzero.le
  · have := v.count_le
    omega

end

/-- Settles O50: `resolve_strictMono`, `resolve_ok` and `TableWFAt.resolve`. -/
theorem resolveCountsLiveSlots : Obligations.ResolveCountsLiveSlots := by
  refine ⟨fun m nslots i j p q => resolve_strictMono, fun m nslots i p h => (resolve_eq_iff.1 h).2, ?_⟩
  rintro m nslots i ⟨le, wf⟩ hi
  obtain ⟨p, -, -, hindex, hresolve⟩ := wf.resolve hi
  exact ⟨p, hresolve, hindex⟩

/-! ## The faults of the neighbour analysis (R97) -/

/-- The left run beside `p` is empty or longer than `p`. -/
def LeftCorrupt (m : Memory) (p : Nat) : Prop :=
  1 ≤ p ∧ Tomb m (p - 1) ∧ (runlen (markerAt m (p - 1)) = 0 ∨ p < runlen (markerAt m (p - 1)))

/-- The right run beside `p` is empty or does not end before the last live slot. -/
def RightCorrupt (m : Memory) (p le : Nat) : Prop :=
  p + 1 < le ∧ Tomb m (p + 1) ∧ (runlen (markerAt m (p + 1)) = 0 ∨ le < p + runlen (markerAt m (p + 1)) + 2)

section
variable {m : Memory} {p le : Nat} {e : CmdError}

theorem leftRun_error_iff : leftRun m p = .error e ↔ LeftCorrupt m p ∧ e = .corruptMarker (p - 1) := by
  unfold leftRun LeftCorrupt Tomb
  split_ifs with hp ht hzero hlong
  · simp [hp]
  · simp [Nat.one_le_iff_ne_zero, hp, ht, hzero, eq_comm]
  · simp [Nat.one_le_iff_ne_zero, hp, ht, hlong, eq_comm]
  · simp [hzero, hlong]
  · simp [ht]

theorem rightRun_error_iff : rightRun m p le = .error e ↔ RightCorrupt m p le ∧ e = .corruptMarker (p + 1) := by
  unfold rightRun RightCorrupt Tomb
  split_ifs with hp ht hzero hlong
  · simp [hp, ht, hzero, eq_comm]
  · simp [hp, ht, hlong, eq_comm]
  · simp [hzero, hlong]
  · simp [ht]
  · simp [hp]

/-- The left run is looked at first. -/
theorem neighbours_error_iff : neighbours m p le = .error e ↔
    (LeftCorrupt m p ∧ e = .corruptMarker (p - 1)) ∨
    (¬ LeftCorrupt m p ∧ RightCorrupt m p le ∧ e = .corruptMarker (p + 1)) := by
  unfold neighbours
  split
  · next e' hl =>
    obtain ⟨hcorrupt, rfl⟩ := leftRun_error_iff.1 hl
    simp [hcorrupt, eq_comm]
  · next l hl =>
    have hsound : ¬ LeftCorrupt m p := fun hcorrupt => by
      rw [leftRun_error_iff.2 ⟨hcorrupt, rfl⟩] at hl
      cases hl
    rw [← rightRun_error_iff]
    split <;> simp_all

end

/-! ## Faults end a command with nothing written (R82, R146, R147) -/

/-- `raise` leaves the operand registers, the NVM and the bus history as they were. -/
theorem State.raise_writes_nothing (s : State) (e : CmdError) :
    FailedWith s (s.raise e) e ∧ SameOperands s (s.raise e) ∧ SameNvm s (s.raise e) ∧ SameBus s (s.raise e) :=
  ⟨s.raise_failedWith e, ⟨rfl, rfl, rfl, rfl, rfl⟩, fun _ => rfl, ⟨rfl, rfl⟩⟩

section
variable {s : State} {n : Nat} {e : CmdError}

/-- A fault of the index check or of the walk ends `KS_GET` and `KS_RESOLVE` (R90, R104). -/
theorem exec_of_resolveIndex_error {i : Instr} (hi : i = .ksGet n ∨ i = .ksResolve n)
    (h : resolveIndex s.nvm s.cfg.nslots n = .error e) : exec i s = .next (s.raise e) := by
  obtain rfl | rfl := hi
  · simp only [exec, execKsGet, h]
  · simp only [exec, execKsResolve, h]

/-- A fault of its plan ends `KS_DELETE` (R98). -/
theorem exec_ksDelete_of_error (h : deletePlan s.cfg.nslots s.nvm n = .error e) :
    exec (.ksDelete n) s = .next (s.raise e) := by
  rw [exec, execKsDelete, h, State.carryOut_error]

end

theorem resolveIndex_of_lt {m : Memory} {nslots n : Nat} (h : n < liveCount m) :
    resolveIndex m nslots n = resolve m nslots n := if_neg h.not_ge

theorem resolveIndex_of_ge {m : Memory} {nslots n : Nat} (h : liveCount m ≤ n) :
    resolveIndex m nslots n = .error (.indexRange n) := if_pos h

/-- The faults of a delete in their order: of `logical_end`, of `resolve`, of the neighbour analysis (R98). -/
theorem deletePlan_walk_error {m : Memory} {nslots n : Nat} {e : CmdError} (hn : n < liveCount m)
    (h : logicalEnd m nslots = .error e ∨
      (∃ le, logicalEnd m nslots = .ok le ∧ resolve m nslots n = .error e) ∨
      (∃ le p, logicalEnd m nslots = .ok le ∧ resolve m nslots n = .ok p ∧ neighbours m p le = .error e)) :
    deletePlan nslots m n = .error e := by
  rw [deletePlan, if_neg hn.not_ge]
  obtain hend | ⟨le, hend, hwalk⟩ | ⟨le, p, hend, hwalk, hside⟩ := h
  · simp only [hend]
  · simp only [hend, hwalk]
  · simp only [hend, hwalk, hside]

/-- Settles O42: the walk by `resolve_eq_iff`, the other faults by `logicalEnd_error_iff` and `neighbours_error_iff`, and
each ends its command with `raise` (`State.raise_writes_nothing`). -/
theorem ksWalkFaults : Obligations.KsWalkFaults := by
  refine ⟨fun n s e i hi hn hwalk => ?walk, fun n s e hn hfault => ?delete, fun m nslots i p => resolve_eq_iff,
    fun m nslots i e => resolve_eq_iff, fun m nslots e => logicalEnd_error_iff, fun m p le e => ?sides⟩
  case walk =>
    exact ⟨_, exec_of_resolveIndex_error hi ((resolveIndex_of_lt hn).trans hwalk), s.raise_writes_nothing e⟩
  case delete => exact ⟨_, exec_ksDelete_of_error (deletePlan_walk_error hn hfault), s.raise_writes_nothing e⟩
  case sides => simpa only [LeftCorrupt, RightCorrupt, and_assoc] using neighbours_error_iff

end Sys2Proof.Machine
end

section
/-! PROOFS. The key store's commands that write no slot: `KS_COUNT`, `KS_SET_COUNT`, `KS_RESOLVE` and `KS_GET`, and the
index check (R87, R89, R90, R101, R104). -/

namespace Sys2Proof.Machine

/-! ## The counter and the index check -/

/-- The counter is the number of bytes 0 and 1, little-endian (R40). -/
theorem liveCount_eq (m : Memory) : liveCount m = (m.read 0).toNat + 256 * (m.read 1).toNat := rfl

/-- Settles O37: `finish` with the counter (`liveCount_eq`), and no work before it. -/
theorem ksCountCompletes : Obligations.KsCountCompletes :=
  ⟨fun s => ⟨_, rfl, (Working.refl s).finishedWith _, ⟨rfl, rfl, rfl, rfl, rfl⟩, fun _ => rfl, ⟨rfl, rfl⟩⟩, rfl⟩

/-- The counter's two bytes, low byte first, and no other (R40, R57). -/
theorem read_storeAll_counter (m : Memory) (v : Nat) :
    (m.storeAll (memWrite 0 2 v)).read 0 = BitVec.ofNat 8 v ∧
    (m.storeAll (memWrite 0 2 v)).read 1 = BitVec.ofNat 8 (v / 256) ∧
    ∀ a, 2 ≤ a → (m.storeAll (memWrite 0 2 v)).read a = m.read a := by
  refine ⟨?_, ?_, fun a ha => Memory.read_storeAll_other m _ a fun c hc => ?_⟩
  · simp [memWrite, leBytes, cellsFrom, Memory.read_store]
  · simp [memWrite, leBytes, cellsFrom]
  · have := mem_memWrite hc
    omega

/-- Settles O38: the plan writes the counter (`read_storeAll_counter`). -/
theorem ksSetCountCompletes : Obligations.KsSetCountCompletes := by
  intro n s
  obtain ⟨hlow, hhigh, hother⟩ := read_storeAll_counter s.nvm n
  exact ⟨_, rfl, (Working.writeNvm (setCountPlan_inTable _ n)).finishedWith _, hlow, hhigh, hother,
    ⟨rfl, rfl, rfl, rfl, rfl⟩, ⟨rfl, rfl⟩⟩

/-- Settles O41: the index check comes first in `resolveIndex` and in `deletePlan`. -/
theorem ksIndexRange : Obligations.KsIndexRange := by
  intro n s i hi hn
  have hraise : exec i s = .next (s.raise (.indexRange n)) := by
    obtain rfl | rfl | rfl := hi
    · exact exec_of_resolveIndex_error (.inl rfl) (resolveIndex_of_ge hn)
    · exact exec_ksDelete_of_error (if_pos hn)
    · exact exec_of_resolveIndex_error (.inr rfl) (resolveIndex_of_ge hn)
  exact ⟨_, hraise, s.raise_writes_nothing _⟩

/-! ## KS_RESOLVE (R104) -/

/-- A word of the opcode of `KS_RESOLVE` with `RSV` clear is that command with the word's operand (R62, R63). -/
theorem decode_ksResolve (v : Half) : decode (0x35000000#32 ||| v.setWidth 32) = .ok (.ksResolve v.toNat) := by
  have hfit : (Instr.ksResolve v.toNat).wellFormed = true :=
    (Instr.wellFormed_iff _).2 (Nat.le_of_lt_succ v.isLt)
  have hword : v.setWidth 32 = BitVec.ofNat 32 v.toNat := BitVec.eq_of_toNat_eq (by simp)
  rw [hword]
  exact decodeEncodeRoundTrip _ hfit

/-- Settles O39: `finish` with the walk's answer, and the row of `KS_RESOLVE` (`decode_ksResolve`). -/
theorem ksResolveCompletes : Obligations.KsResolveCompletes := by
  refine ⟨fun n p s hn hp => ⟨s.finish (BitVec.ofNat 16 p), ?_, (Working.refl s).finishedWith _,
    ⟨rfl, rfl, rfl, rfl, rfl⟩, fun _ => rfl, ⟨rfl, rfl⟩⟩, decode_ksResolve⟩
  simp only [exec, execKsResolve, resolveIndex_of_lt hn, hp]

/-! ## KS_GET (R90) -/

theorem readBytes_getD (m : Memory) {a n j : Nat} (hj : j < n) : (m.readBytes a n).getD j 0#8 = m.read (a + j) := by
  induction n generalizing a j with
  | zero => omega
  | succ n ih =>
    cases j with
    | zero => rfl
    | succ j =>
      rw [Memory.readBytes, List.getD_cons_succ, ih (Nat.lt_of_succ_lt_succ hj), Nat.add_assoc, Nat.add_comm 1 j]

section
variable {m : Memory} {n a k : Nat}

/-- A name is read as it is up to its first 0x00 and with it (R90). -/
theorem readName_getD_of_nonzero (hk : k < n) (h : ∀ j, j < k → m.read (a + j) ≠ 0x00#8) :
    (readName m n a).getD k 0#8 = m.read (a + k) := by
  induction n generalizing a k with
  | zero => omega
  | succ n ih =>
    rw [readName]
    cases k with
    | zero => split <;> simp_all
    | succ k =>
      have hhead : m.read a ≠ 0x00#8 := h 0 (Nat.succ_pos k)
      have hstep : ∀ j, a + 1 + j = a + (j + 1) := fun j => by omega
      rw [if_neg hhead, List.getD_cons_succ, ih (Nat.lt_of_succ_lt_succ hk), hstep]
      intro j hj
      rw [hstep]
      exact h (j + 1) (Nat.succ_lt_succ hj)

/-- After the first 0x00 of a name there is nothing but 0x00 (R90). -/
theorem readName_getD_of_zero (h : ∃ j, j < k ∧ m.read (a + j) = 0x00#8) : (readName m n a).getD k 0#8 = 0x00#8 := by
  induction n generalizing a k with
  | zero => rfl
  | succ n ih =>
    obtain ⟨j, hj, hzero⟩ := h
    obtain ⟨k, rfl⟩ : ∃ k', k = k' + 1 := ⟨k - 1, by omega⟩
    rw [readName]
    split
    · simp
    · next hhead =>
      cases j with
      | zero => exact absurd hzero hhead
      | succ j =>
        rw [List.getD_cons_succ]
        refine ih ⟨j, Nat.lt_of_succ_lt_succ hj, ?_⟩
        rwa [Nat.add_assoc, Nat.add_comm 1 j]

end

theorem nameOf_getElem (bytes : List Byte) {k : Nat} (hk : k < 32) : (nameOf bytes)[k] = bytes.getD k 0#8 :=
  Vector.getElem_ofFn hk

theorem identityOf_getElem (bytes : List Byte) {j : Nat} (hj : j < 8) : (identityOf bytes)[j] = bytes.getD j 0#8 :=
  Vector.getElem_ofFn hj

/-- `KS_GET` loads the record of the slot the walk answers (R90). -/
theorem exec_ksGet {s : State} {n p : Nat} (hn : n < liveCount s.nvm) (hp : resolve s.nvm s.cfg.nslots n = .ok p) :
    exec (.ksGet n) s = .next ((s.loadRecord p).finish (BitVec.ofNat 16 p)) := by
  simp only [exec, execKsGet, resolveIndex_of_lt hn, hp]

/-- Settles O40: the loaded record (`exec_ksGet`), its name by `readName_getD_of_nonzero` and `readName_getD_of_zero`. -/
theorem ksGetCompletes : Obligations.KsGetCompletes := by
  intro n p s hn hp
  refine ⟨_, exec_ksGet hn hp, ((Working.refl s).loadRecord p).finishedWith _, rfl, (resolve_ok hp).2,
    fun k hk => ⟨fun hnonzero => ?_, fun hzero => ?_⟩, fun j hj => ?_, rfl, rfl, fun _ => rfl, ⟨rfl, rfl⟩⟩
  · exact (nameOf_getElem _ hk).trans (readName_getD_of_nonzero hk hnonzero)
  · exact (nameOf_getElem _ hk).trans (readName_getD_of_zero hzero)
  · exact (identityOf_getElem _ hj).trans (readBytes_getD s.nvm hj)

end Sys2Proof.Machine
end

section
/-! PROOFS. Where `KS_INSERT` puts its record, on any table: first fit below the logical end, and the faults of the
choice (R85, R91 to R94). -/

namespace Sys2Proof.Machine

/-! ## The first tombstoned slot (R85) -/

/-- `h` is the first tombstoned slot below `le`. -/
structure FirstTomb (m : Memory) (le h : Nat) : Prop where
  inside : h < le
  tomb : Tomb m h
  live : ∀ q, q < h → ¬ Tomb m q

section
variable {m : Memory} {le : Nat}

theorem FirstTomb.unique {h h' : Nat} (first : FirstTomb m le h) (first' : FirstTomb m le h') : h = h' := by
  obtain hlt | heq | hgt := Nat.lt_trichotomy h h'
  · exact absurd first.tomb (first'.live h hlt)
  · exact heq
  · exact absurd first'.tomb (first.live h' hgt)

/-- `first_tomb` answers NONE where every slot below the logical end is live, and else the first tombstoned one. -/
theorem firstTomb_cases (m : Memory) (le : Nat) :
    (firstTomb m le = none ∧ ∀ q, q < le → ¬ Tomb m q) ∨ ∃ h, firstTomb m le = some h ∧ FirstTomb m le h := by
  cases hfirst : firstTomb m le with
  | none => exact .inl ⟨rfl, fun q hq => firstTombFrom_none hfirst q (Nat.zero_le q) (by omega)⟩
  | some h =>
    obtain ⟨-, hlt, htomb, hlive⟩ := firstTombFrom_some hfirst
    exact .inr ⟨h, rfl, by omega, htomb, fun q hq => by simp [Tomb, hlive q (Nat.zero_le q) hq]⟩

theorem firstTomb_of_live (live : ∀ q, q < le → ¬ Tomb m q) : firstTomb m le = none := by
  obtain ⟨hnone, -⟩ | ⟨h, -, first⟩ := firstTomb_cases m le
  · exact hnone
  · exact absurd first.tomb (live h first.inside)

theorem FirstTomb.firstTomb_eq {h : Nat} (first : FirstTomb m le h) : firstTomb m le = some h := by
  obtain ⟨-, live⟩ | ⟨h', hsome, first'⟩ := firstTomb_cases m le
  · exact absurd first.tomb (live h first.inside)
  · rw [hsome, first'.unique first]

end

/-! ## First fit (R91, R92) -/

/-- What an insert does with a run of `l` slots from `h` on: it consumes a run of one, and takes the first or the last
slot of a longer run. -/
def runChoice (e : RunEnd) (h l : Nat) : InsertChoice :=
  if l = 1 then { slot := h, index := h, marks := [] }
  else
    match e with
    | .head => { slot := h, index := h, marks := [(h + 1, l - 1), (h + l - 1, l - 1)] }
    | .tail => { slot := h + l - 1, index := h, marks := [(h, l - 1), (h + l - 2, l - 1)] }

theorem runChoice_one (e : RunEnd) (h : Nat) : runChoice e h 1 = { slot := h, index := h, marks := [] } := rfl

theorem runChoice_head (h : Nat) {l : Nat} (hl : 1 < l) : runChoice .head h l =
    { slot := h, index := h, marks := [(h + 1, l - 1), (h + l - 1, l - 1)] } := if_neg hl.ne'

theorem runChoice_tail (h : Nat) {l : Nat} (hl : 1 < l) : runChoice .tail h l =
    { slot := h + l - 1, index := h, marks := [(h, l - 1), (h + l - 2, l - 1)] } := if_neg hl.ne'

/-- A run that an insert refuses: empty, or not ended before the last live slot (R94). -/
def RunCorrupt (m : Memory) (le h : Nat) : Prop :=
  runlen (markerAt m h) = 0 ∨ le < h + runlen (markerAt m h) + 1

theorem not_runCorrupt_iff {m : Memory} {le h : Nat} :
    ¬ RunCorrupt m le h ↔ 1 ≤ runlen (markerAt m h) ∧ h + runlen (markerAt m h) + 1 ≤ le := by
  rw [RunCorrupt]
  omega

section
variable (c : Config) {m : Memory} {le h : Nat}

theorem chooseBelow_of_live (live : ∀ q, q < le → ¬ Tomb m q) : chooseBelow c m le =
    if le = c.nslots then .error .storeFull else .ok { slot := le, index := liveCount m, marks := [] } := by
  rw [chooseBelow, firstTomb_of_live live]

theorem chooseBelow_of_corrupt (first : FirstTomb m le h) (hrun : RunCorrupt m le h) :
    chooseBelow c m le = .error (.corruptMarker h) := by
  rw [chooseBelow, first.firstTomb_eq]
  dsimp only
  obtain hzero | hlong := hrun
  · rw [if_pos hzero]
  · rw [if_pos hlong, ite_self]

theorem chooseBelow_of_run (first : FirstTomb m le h) (hrun : ¬ RunCorrupt m le h) :
    chooseBelow c m le = .ok (runChoice c.insertRunEnd h (runlen (markerAt m h))) := by
  obtain ⟨hpos, hend⟩ := not_runCorrupt_iff.1 hrun
  rw [chooseBelow, first.firstTomb_eq]
  dsimp only
  rw [if_neg (by omega), if_neg (by omega)]
  unfold runChoice
  split
  · rfl
  · cases c.insertRunEnd with
    | head => rfl
    | tail => rfl

end

/-! ## The chosen slot (R94) -/

section
variable {c : Config} {m : Memory} {le h : Nat}

/-- The table's own walk has passed the first run, so it is sound, and the walk has counted the slots below it. -/
theorem FirstTomb.passed (first : FirstTomb m le h) (hle : logicalEnd m c.nslots = .ok le) :
    ¬ RunCorrupt m le h ∧ h < liveCount m := by
  obtain ⟨-, rfl⟩ | ⟨hpos, p, rfl, v, -, hlive⟩ := logicalEnd_ok_cases hle
  · exact absurd first.inside (Nat.not_lt_zero h)
  · have hhp : h ≠ p := fun heq => hlive (heq ▸ first.tomb)
    have := first.inside
    obtain ⟨hph, -⟩ | ⟨-, hcount, hpast⟩ := v.of_live_below first.live
    · omega
    · have hrun := hpast first.tomb
      exact ⟨not_runCorrupt_iff.2 (by omega), by omega⟩

/-- Without a tombstoned slot the logical end is the counter. -/
theorem logicalEnd_eq_liveCount (hle : logicalEnd m c.nslots = .ok le) (live : ∀ q, q < le → ¬ Tomb m q) :
    le = liveCount m := by
  obtain ⟨hzero, rfl⟩ | ⟨hpos, p, rfl, v, -, -⟩ := logicalEnd_ok_cases hle
  · exact hzero.symm
  · obtain ⟨-, hcount⟩ | ⟨hlt, -, -⟩ := v.of_live_below live
    · omega
    · omega

/-- What an insert chooses: the logical end of a table without tombstoned slots, or a slot of the first run. -/
inductive Chosen (c : Config) (m : Memory) : InsertChoice → Prop where
  | append {le : Nat} (hle : logicalEnd m c.nslots = .ok le) (room : le ≠ c.nslots)
      (live : ∀ q, q < le → ¬ Tomb m q) : Chosen c m { slot := le, index := liveCount m, marks := [] }
  | reuse {le h : Nat} (hle : logicalEnd m c.nslots = .ok le) (first : FirstTomb m le h)
      (sound : ¬ RunCorrupt m le h) (counted : h < liveCount m) :
      Chosen c m (runChoice c.insertRunEnd h (runlen (markerAt m h)))

theorem chooseSlot_ok {x : InsertChoice} (hx : chooseSlot c m = .ok x) : Chosen c m x := by
  cases hle : logicalEnd m c.nslots with
  | error e => simp [chooseSlot, hle] at hx
  | ok le =>
    rw [chooseSlot_of_logicalEnd c m le hle] at hx
    obtain ⟨-, live⟩ | ⟨h, -, first⟩ := firstTomb_cases m le
    · rw [chooseBelow_of_live c live] at hx
      split at hx
      · cases hx
      · next hroom =>
        cases hx
        exact .append hle hroom live
    · obtain ⟨sound, counted⟩ := first.passed hle
      rw [chooseBelow_of_run c first sound] at hx
      cases hx
      exact .reuse hle first sound counted

/-- The choice fails with the fault of the walk, or in a table that is full. -/
theorem chooseSlot_error_iff {e : CmdError} : chooseSlot c m = .error e ↔
    logicalEnd m c.nslots = .error e ∨
    (logicalEnd m c.nslots = .ok c.nslots ∧ (∀ q, q < c.nslots → ¬ Tomb m q) ∧ e = .storeFull) := by
  cases hle : logicalEnd m c.nslots with
  | error e' => simp [chooseSlot, hle]
  | ok le =>
    rw [chooseSlot_of_logicalEnd c m le hle]
    obtain ⟨-, live⟩ | ⟨h, -, first⟩ := firstTomb_cases m le
    · rw [chooseBelow_of_live c live]
      split
      · next hfull =>
        subst hfull
        constructor
        · intro he
          cases he
          exact .inr ⟨rfl, live, rfl⟩
        · rintro (he | ⟨-, -, rfl⟩)
          · cases he
          · rfl
      · next hroom => simp [hroom]
    · rw [chooseBelow_of_run c first (first.passed hle).1]
      constructor
      · intro he
        cases he
      · rintro (he | ⟨hfull, live, -⟩)
        · cases he
        · cases hfull
          exact absurd first.tomb (live h first.inside)

end

/-- Settles O43: `chooseBelow_of_live` and `chooseBelow_of_run`. -/
theorem insertFirstFit : Obligations.InsertFirstFit := by
  intro c m le hle
  rw [chooseSlot_of_logicalEnd c m le hle]
  constructor
  · intro live
    rw [chooseBelow_of_live c live]
    exact ⟨fun hfull => if_pos hfull, fun hroom => if_neg hroom⟩
  · rintro h hh ht hlive l rfl hpos hend
    rw [chooseBelow_of_run c ⟨hh, ht, hlive⟩ (not_runCorrupt_iff.2 ⟨hpos, hend⟩)]
    refine ⟨fun hone => ?_, fun hlong hside => ?_, fun hlong hside => ?_⟩
    · rw [hone, runChoice_one]
    · rw [hside, runChoice_head h hlong]
    · rw [hside, runChoice_tail h hlong]

/-! ## The refusals (R94) -/

section
variable {nm : Vector Byte 32}

/-- A name without a terminator (R88). -/
theorem nameLength_eq_none_iff : nameLength nm = none ↔ ∀ (k : Nat) (hk : k < 32), nm[k] ≠ 0x00#8 := by
  simp [nameLength, List.findIdx?_eq_none_iff, Vector.forall_mem_iff_forall_getElem]

/-- A name's length is the place of its first 0x00 (R88). -/
theorem nameLength_eq_some_iff {n : Nat} : nameLength nm = some n ↔
    ∃ hn : n < 32, nm[n] = 0x00#8 ∧ ∀ (k : Nat) (hk : k < n), nm[k] ≠ 0x00#8 := by
  simp [nameLength, List.findIdx?_eq_some_iff_getElem]

end

section
variable {c : Config} {r : Regs} {m : Memory}

theorem insertPlan_of_badType (hkey : isTomb r.keyType = true) :
    insertPlan c r m = .error (.badType r.keyType) := if_pos hkey

theorem insertPlan_of_badName (hkey : isTomb r.keyType = false) (hname : nameLength r.namebuf = none) :
    insertPlan c r m = .error .badName := by
  simp [insertPlan, hkey, hname]

theorem insertPlan_of_choice_error {n : Nat} {e : CmdError} (hkey : isTomb r.keyType = false)
    (hname : nameLength r.namebuf = some n) (hx : chooseSlot c m = .error e) : insertPlan c r m = .error e := by
  simp [insertPlan, hkey, hname, hx]

end

/-- A terminator somewhere in `NAMEBUF` gives the name a length. -/
theorem exists_nameLength {nm : Vector Byte 32} {n : Nat} (hn : n < 32) (hzero : nm[n] = 0x00#8) :
    ∃ k, nameLength nm = some k :=
  Option.ne_none_iff_exists'.1 fun hnone => nameLength_eq_none_iff.1 hnone n hn hzero

/-- A fault of its plan ends `KS_INSERT` (R94). -/
theorem exec_ksInsert_of_error {s : State} {e : CmdError} (h : insertPlan s.cfg s.regs s.nvm = .error e) :
    exec .ksInsert s = .next (s.raise e) := by
  rw [exec, execKsInsert, h, State.carryOut_error]

/-- Settles O45: the checks of the plan in their order, each ended with `raise`; the guard on a run is
`chooseBelow_of_corrupt`, and the faults of the choice are `chooseSlot_error_iff`. -/
theorem ksInsertRefusals : Obligations.KsInsertRefusals := by
  refine ⟨fun s hkey => ?badType, fun s hkey hname => ?badName, fun s n hn e hkey hzero hx => ?choice,
    fun c m le h hh ht hlive hrun => chooseBelow_of_corrupt c ⟨hh, ht, hlive⟩ hrun, fun c m e => chooseSlot_error_iff⟩
  case badType => exact ⟨_, exec_ksInsert_of_error (insertPlan_of_badType hkey), s.raise_writes_nothing _⟩
  case badName =>
    exact ⟨_, exec_ksInsert_of_error (insertPlan_of_badName hkey (nameLength_eq_none_iff.2 hname)),
      s.raise_writes_nothing _⟩
  case choice =>
    obtain ⟨k, hk⟩ := exists_nameLength hn hzero
    exact ⟨_, exec_ksInsert_of_error (insertPlan_of_choice_error hkey hk hx), s.raise_writes_nothing _⟩

end Sys2Proof.Machine
end

section
/-! PROOFS. What the writes of `KS_INSERT` and `KS_DELETE` leave in the NVM, byte by byte, on any table, and that
`KS_GET` gives an inserted record back (R88, R93, R94, R98, R99, R103). -/

namespace Sys2Proof.Machine

/-! ## Bytes laid in a row (R56, R57) -/

theorem cellsFrom_append (a : Nat) (xs ys : List Byte) :
    cellsFrom a (xs ++ ys) = cellsFrom a xs ++ cellsFrom (a + xs.length) ys := by
  induction xs generalizing a with
  | nil => rfl
  | cons x xs ih =>
    rw [List.cons_append, cellsFrom, cellsFrom, ih, List.length_cons, List.cons_append, Nat.add_right_comm,
      Nat.add_assoc]

/-- The bytes of a number made of bytes are these bytes (R11). -/
theorem leBytes_leNumber (bytes : List Byte) : leBytes bytes.length (leNumber bytes) = bytes := by
  induction bytes with
  | nil => rfl
  | cons b rest ih =>
    have hb := b.isLt
    have hrest : leNumber (b :: rest) / 256 = leNumber rest := by
      simp only [leNumber]
      omega
    have hhead : BitVec.ofNat 8 (leNumber (b :: rest)) = b := by
      apply BitVec.eq_of_toNat_eq
      simp only [leNumber, BitVec.toNat_ofNat]
      omega
    rw [List.length_cons, leBytes, hrest, ih, hhead]

theorem memWrite_leNumber (a : Nat) (bytes : List Byte) :
    memWrite a bytes.length (leNumber bytes) = cellsFrom a bytes := by
  rw [memWrite, leBytes_leNumber]

/-- Each byte of the row reads back. -/
theorem read_storeAll_cellsFrom (m : Memory) {a k : Nat} {bytes : List Byte} (hk : k < bytes.length) :
    (m.storeAll (cellsFrom a bytes)).read (a + k) = bytes[k] := by
  induction bytes generalizing m a k with
  | nil => cases hk
  | cons b rest ih =>
    rw [cellsFrom, Memory.storeAll_cons]
    cases k with
    | zero =>
      refine (Memory.read_storeAll_other _ _ a fun c hc => ?_).trans (Memory.read_store_same m a b)
      have := mem_cellsFrom hc
      omega
    | succ k => rw [List.getElem_cons_succ, ← ih (m.store a b) (a := a + 1), Nat.add_right_comm, Nat.add_assoc]

/-! ## A record in its slot (R88) -/

/-- The two payload halves are the eight identity bytes in a row (R44). -/
theorem payloadWrites_eq (id : Vector Byte 8) (a : Nat) :
    memWrite a 4 (payloadHalf id 0) ++ memWrite (a + 4) 4 (payloadHalf id 4) = cellsFrom a id.toList := by
  have hlow : (id.toList.take 4).length = 4 := by simp
  have hhigh : ((id.toList.drop 4).take 4).length = 4 := by simp
  have hall : id.toList.take 4 ++ (id.toList.drop 4).take 4 = id.toList := by
    rw [List.take_of_length_le (by simp : (id.toList.drop 4).length ≤ 4), List.take_append_drop]
  have hlowWrite := memWrite_leNumber a (id.toList.take 4)
  have hhighWrite := memWrite_leNumber (a + 4) ((id.toList.drop 4).take 4)
  rw [hlow] at hlowWrite
  rw [hhigh] at hhighWrite
  rw [payloadHalf, payloadHalf, List.drop_zero, hlowWrite, hhighWrite]
  conv_rhs => rw [← hall, cellsFrom_append, hlow]

theorem recordWrites_eq (r : Regs) (n p : Nat) : recordWrites r n p =
    memWrite (slotAddr p) 1 r.keyType.toNat ++ cellsFrom (slotAddr p + 1) (r.namebuf.toList.take (n + 1))
      ++ cellsFrom (slotAddr p + 33) r.idbuf.toList := by
  rw [← payloadWrites_eq, ← List.append_assoc]
  rfl

section
variable (m : Memory) (r : Regs) {n : Nat} (p : Nat) (hn : n < 32)
include hn

/-- The name stands after the type byte, with its terminator (R43). -/
theorem read_storeAll_record_name {k : Nat} (hk : k ≤ n) :
    (m.storeAll (recordWrites r n p)).read (slotAddr p + 1 + k) = r.namebuf[k] := by
  have hlen : k < (r.namebuf.toList.take (n + 1)).length := by simp; omega
  rw [recordWrites_eq, Memory.storeAll_append, Memory.storeAll_append, Memory.read_storeAll_other,
    read_storeAll_cellsFrom _ hlen]
  · simp
  · intro c hc
    have := mem_cellsFrom hc
    omega

/-- A record touches its type byte, the name up to its terminator, and the payload. -/
theorem read_storeAll_record_other {a : Nat} (hname : ¬ (slotAddr p ≤ a ∧ a ≤ slotAddr p + 1 + n))
    (hid : ¬ (slotAddr p + 33 ≤ a ∧ a ≤ slotAddr p + 40)) :
    (m.storeAll (recordWrites r n p)).read a = m.read a := by
  refine Memory.read_storeAll_other m _ a fun c hc => ?_
  have hnameLen : (r.namebuf.toList.take (n + 1)).length = n + 1 := by simp; omega
  have hidLen : r.idbuf.toList.length = 8 := by simp
  rw [recordWrites_eq, List.mem_append, List.mem_append] at hc
  obtain (hc | hc) | hc := hc
  · have := mem_memWrite hc
    omega
  · have := mem_cellsFrom hc
    omega
  · have := mem_cellsFrom hc
    omega

end

/-- The payload is the eight identity bytes (R44). -/
theorem read_storeAll_record_id (m : Memory) (r : Regs) (n p : Nat) {j : Nat} (hj : j < 8) :
    (m.storeAll (recordWrites r n p)).read (slotAddr p + 33 + j) = r.idbuf[j] := by
  have hlen : j < r.idbuf.toList.length := by simpa using hj
  rw [recordWrites_eq, Memory.storeAll_append, read_storeAll_cellsFrom _ hlen, Vector.getElem_toList]

/-! ## Boundary markers (R92) -/

theorem mem_memWrite_one {a v : Nat} {c : Host.Cell} (h : c ∈ memWrite a 1 v) : c.1 = a := by
  have := mem_memWrite h
  omega

theorem mem_markWrites {marks : List (Nat × Nat)} {c : Host.Cell} (h : c ∈ markWrites marks) :
    ∃ q ∈ marks, c.1 = slotAddr q.1 := by
  induction marks with
  | nil => cases h
  | cons x rest ih =>
    rcases List.mem_append.1 h with h | h
    · exact ⟨x, List.mem_cons_self, mem_memWrite_one h⟩
    · obtain ⟨q, hq, hc⟩ := ih h
      exact ⟨q, List.mem_cons_of_mem x hq, hc⟩

/-- Markers of one length all stand where they are written, the same slot twice or not. -/
theorem markerAt_storeAll_markWrites (m : Memory) {marks : List (Nat × Nat)} {l : Nat} (hlen : ∀ q ∈ marks, q.2 = l)
    (p : Nat) : markerAt (m.storeAll (markWrites marks)) p =
      if ∃ q ∈ marks, q.1 = p then marker l else markerAt m p := by
  induction marks generalizing m with
  | nil => simp [markWrites]
  | cons x rest ih =>
    have hx : x.2 = l := hlen x List.mem_cons_self
    rw [markWrites, Memory.storeAll_append, ih _ fun q hq => hlen q (List.mem_cons_of_mem x hq),
      markerAt_storeAll_marker, BitVec.ofNat_toNat, BitVec.setWidth_eq, hx]
    by_cases hp : x.1 = p
    · simp [hp]
    · have hrest : (∃ q ∈ x :: rest, q.1 = p) ↔ ∃ q ∈ rest, q.1 = p := by simp [hp]
      rw [if_neg (Ne.symm hp)]
      exact if_congr hrest.symm rfl rfl

section
variable (e : RunEnd) (h : Nat) {l : Nat} (hl : 1 ≤ l)

/-- The index of a reused slot is the head of its run (R93). -/
theorem runChoice_index : (runChoice e h l).index = h := by
  unfold runChoice
  split
  · rfl
  · cases e with
    | head => rfl
    | tail => rfl

include hl

/-- An insert takes the head of a run, or its tail, and then marks the rest from the head on (R92). -/
theorem runChoice_slot : (runChoice e h l).slot = h ∨
    (1 < l ∧ (runChoice e h l).slot = h + (l - 1) ∧ (h, l - 1) ∈ (runChoice e h l).marks) := by
  obtain rfl | hlong := hl.eq_or_lt'
  · exact .inl rfl
  · cases e with
    | head => exact .inl (by rw [runChoice_head h hlong])
    | tail =>
      rw [runChoice_tail h hlong]
      exact .inr ⟨hlong, Nat.add_sub_assoc hl h, List.mem_cons_self⟩

/-- The markers of the rest of a run carry its length and stand in it, beside the slot it lost (R92). -/
theorem runChoice_marks : ∀ q ∈ (runChoice e h l).marks, q.2 = l - 1 ∧ h ≤ q.1 ∧ q.1 ≠ (runChoice e h l).slot := by
  obtain rfl | hlong := hl.eq_or_lt'
  · simp [runChoice_one]
  · cases e with
    | head =>
      simp only [runChoice_head h hlong, List.mem_cons, List.not_mem_nil, or_false, forall_eq_or_imp, forall_eq,
        true_and]
      omega
    | tail =>
      simp only [runChoice_tail h hlong, List.mem_cons, List.not_mem_nil, or_false, forall_eq_or_imp, forall_eq,
        true_and]
      omega

end

/-- The boundary markers of an insert have one length, and none is on the chosen slot. -/
theorem Chosen.marks {c : Config} {m : Memory} {x : InsertChoice} (chosen : Chosen c m x) :
    ∃ l, ∀ q ∈ x.marks, q.2 = l ∧ q.1 ≠ x.slot := by
  cases chosen with
  | append => exact ⟨0, by simp⟩
  | @reuse le h _ _ sound =>
    have hmarks := runChoice_marks c.insertRunEnd h (not_runCorrupt_iff.1 sound).1
    exact ⟨_, fun q hq => ⟨(hmarks q hq).1, (hmarks q hq).2.2⟩⟩

/-! ## KS_INSERT (R94) -/

/-- The byte writes of an insert: boundary markers, counter, record. -/
def insertWrites (r : Regs) (m : Memory) (n : Nat) (x : InsertChoice) : List Host.Cell :=
  markWrites x.marks ++ memWrite 0 2 ((liveCount m + 1) % 65536) ++ recordWrites r n x.slot

section
variable {c : Config} {r : Regs} {m : Memory} {n : Nat} {x : InsertChoice}

theorem insertPlan_of_choice (hkey : isTomb r.keyType = false) (hname : nameLength r.namebuf = some n)
    (hx : chooseSlot c m = .ok x) :
    insertPlan c r m = .ok { writes := insertWrites r m n x, result := x.index } := by
  simp [insertPlan, hkey, hname, hx, insertWrites]

/-- An insert that passes its checks has a type below 0x80, a terminated name, and a slot for the record. -/
theorem insertPlan_checks {plan : StorePlan} (h : insertPlan c r m = .ok plan) :
    isTomb r.keyType = false ∧ ∃ n x, nameLength r.namebuf = some n ∧ chooseSlot c m = .ok x := by
  obtain ⟨hkey, -, x, hx, -⟩ := insertPlan_ok h
  cases hname : nameLength r.namebuf with
  | none => simp [insertPlan_of_badName hkey hname] at h
  | some n => exact ⟨hkey, n, x, rfl, hx⟩

theorem liveCount_storeAll_insert (r : Regs) (n : Nat) (x : InsertChoice) :
    liveCount (m.storeAll (insertWrites r m n x)) = (liveCount m + 1) % 65536 := by
  rw [insertWrites, Memory.storeAll_append, Memory.storeAll_append, liveCount_storeAll_record,
    liveCount_storeAll_counter, Nat.mod_mod]

/-- An insert leaves the record's type on the chosen slot, and elsewhere the boundary markers. -/
theorem markerAt_storeAll_insert (r : Regs) (m : Memory) (n : Nat) (x : InsertChoice) (q : Nat) :
    markerAt (m.storeAll (insertWrites r m n x)) q =
      if q = x.slot then r.keyType else markerAt (m.storeAll (markWrites x.marks)) q := by
  rw [insertWrites, Memory.storeAll_append, Memory.storeAll_append, markerAt_storeAll_record,
    markerAt_storeAll_counter]

theorem markerAt_storeAll_insert_mark (chosen : Chosen c m x) (r : Regs) (n : Nat) {q : Nat × Nat} (hq : q ∈ x.marks) :
    markerAt (m.storeAll (insertWrites r m n x)) q.1 = marker q.2 := by
  obtain ⟨l, hmarks⟩ := chosen.marks
  rw [markerAt_storeAll_insert, if_neg (hmarks q hq).2, markerAt_storeAll_markWrites m fun q hq => (hmarks q hq).1,
    if_pos ⟨q, hq, rfl⟩, (hmarks q hq).1]

/-- The counter, the record and the boundary markers are all an insert writes. -/
theorem read_storeAll_insert_other (r : Regs) (m : Memory) {a : Nat} (hn : n < 32) (ha : 2 ≤ a)
    (hname : ¬ (slotAddr x.slot ≤ a ∧ a ≤ slotAddr x.slot + 1 + n))
    (hid : ¬ (slotAddr x.slot + 33 ≤ a ∧ a ≤ slotAddr x.slot + 40)) (hmarks : ∀ q ∈ x.marks, a ≠ slotAddr q.1) :
    (m.storeAll (insertWrites r m n x)).read a = m.read a := by
  rw [insertWrites, Memory.storeAll_append, Memory.storeAll_append, read_storeAll_record_other _ r _ hn hname hid,
    (read_storeAll_counter _ _).2.2 a ha]
  refine Memory.read_storeAll_other m _ a fun cell hcell => ?_
  obtain ⟨q, hq, heq⟩ := mem_markWrites hcell
  exact heq ▸ (hmarks q hq).symm

/-- The counter of a table with a logical end is at most `NSLOTS`. -/
theorem liveCount_le_of_choice (hok : c.ok = true) (hx : chooseSlot c m = .ok x) : liveCount m ≤ 127 := by
  have hslots := nslots_le_of_ok hok
  obtain ⟨le, hle⟩ : ∃ le, logicalEnd m c.nslots = .ok le := by
    cases chooseSlot_ok hx with
    | append hle | reuse hle => exact ⟨_, hle⟩
  have := liveCount_le_of_logicalEnd hle
  have := logicalEnd_ok hle
  omega

end

/-- A plan that passed the checks ends `KS_INSERT` (R94). -/
theorem exec_ksInsert_of_ok {s : State} {plan : StorePlan} (h : insertPlan s.cfg s.regs s.nvm = .ok plan) :
    exec .ksInsert s = .next ((s.writeNvm plan.writes).finish (BitVec.ofNat 16 plan.result)) := by
  rw [exec, execKsInsert, h, State.carryOut_ok]

/-- Settles O44: the plan's writes (`insertPlan_of_choice`), read back byte by byte. -/
theorem ksInsertCompletes : Obligations.KsInsertCompletes := by
  intro s n hn x hok hkey hzero hfirst hx
  have hplan := insertPlan_of_choice hkey (nameLength_eq_some_iff.2 ⟨hn, hzero, hfirst⟩) hx
  refine ⟨_, exec_ksInsert_of_ok hplan, (Working.writeNvm (insertPlan_inTable hplan)).finishedWith _, ?count, ?type,
    fun k hk => ?name, fun j hj => ?id, fun q hq => markerAt_storeAll_insert_mark (chooseSlot_ok hx) _ _ hq,
    fun a ha => read_storeAll_insert_other _ _ hn ha, ⟨rfl, rfl, rfl, rfl, rfl⟩, ⟨rfl, rfl⟩⟩
  case count =>
    have := liveCount_le_of_choice hok hx
    exact (liveCount_storeAll_insert _ _ _).trans (Nat.mod_eq_of_lt (by omega))
  case type => exact (markerAt_storeAll_insert _ _ _ _ _).trans (if_pos rfl)
  case name =>
    rw [State.finish_nvm, State.writeNvm_nvm, insertWrites, Memory.storeAll_append]
    exact read_storeAll_record_name _ _ _ hn hk
  case id =>
    rw [State.finish_nvm, State.writeNvm_nvm, insertWrites, Memory.storeAll_append]
    exact read_storeAll_record_id _ _ _ _ hj

/-! ## KS_GET after KS_INSERT (R93, R103) -/

/-- The walk to the index of an insert answers the chosen slot: the slots below are live, and where the slot is the tail
of a run, one step over the rest of the run leads to it (R93). -/
theorem Chosen.resolve_index {c : Config} {m m' : Memory} {x : InsertChoice} (chosen : Chosen c m x)
    (hslot : ¬ Tomb m' x.slot) (hmarks : ∀ q ∈ x.marks, markerAt m' q.1 = marker q.2)
    (hother : ∀ q, q ≠ x.slot → (∀ y ∈ x.marks, q ≠ y.1) → markerAt m' q = markerAt m q) :
    resolve m' c.nslots x.index = .ok x.slot ∧ x.index ≤ liveCount m := by
  cases chosen with
  | @append le hle room live =>
    have hbound := logicalEnd_ok hle
    have live' : ∀ q, q < le → ¬ Tomb m' q := fun q hq =>
      mt (tomb_congr (hother q hq.ne (by simp))).1 (live q hq)
    have hindex := logicalEnd_eq_liveCount hle live
    refine ⟨resolve_eq_iff.2 ⟨?_, by dsimp only; omega, hslot⟩, le_rfl⟩
    have hvisited := visited_of_live hbound live'
    rwa [← hindex]
  | @reuse le h hle first sound counted =>
    have hbound := logicalEnd_ok hle
    have hinside := first.inside
    obtain ⟨hone, hpast⟩ := not_runCorrupt_iff.1 sound
    have hmark := runChoice_marks c.insertRunEnd h hone
    have hindex := runChoice_index c.insertRunEnd h (l := runlen (markerAt m h))
    have hchosen := runChoice_slot c.insertRunEnd h hone
    generalize runChoice c.insertRunEnd h (runlen (markerAt m h)) = x at *
    have live' : ∀ q, q < h → ¬ Tomb m' q := fun q hq => by
      refine mt (tomb_congr (hother q ?_ fun y hy => ?_)).1 (first.live q hq)
      · obtain hslot | ⟨-, hslot, -⟩ := hchosen <;> omega
      · have := (hmark y hy).2.1
        omega
    have hvisited : Visited m' c.nslots h h := visited_of_live (by omega) live'
    rw [hindex]
    refine ⟨resolve_eq_iff.2 ⟨?_, ?_, hslot⟩, counted.le⟩
    · obtain hhead | ⟨hlong, htail, hrest⟩ := hchosen
      · rwa [hhead]
      · have hmarker : markerAt m' h = marker (runlen (markerAt m h) - 1) := hmarks _ hrest
        have hrun : runlen (markerAt m' h) = runlen (markerAt m h) - 1 := by
          have := runlen_eq_mod (markerAt m h)
          rw [hmarker, runlen_marker (by omega)]
        have hskip := hvisited.skip (by omega) (tomb_of_marker hmarker) (by omega)
        rwa [hrun, ← htail] at hskip
    · obtain hslot | ⟨-, hslot, -⟩ := hchosen <;> omega

/-- A result of 16 bits reads back from `RESULT` (R21). -/
theorem result_toNat {i : Nat} (h : i < 65536) : ((BitVec.ofNat 16 i).setWidth 32).toNat = i := by
  simp only [BitVec.toNat_setWidth, BitVec.toNat_ofNat]
  omega

/-- Settles O49: the insert by `ksInsertCompletes`, the walk to its index by `Chosen.resolve_index`, and the record by
`ksGetCompletes`. -/
theorem insertThenGet : Obligations.InsertThenGet := by
  intro s t u hok ht herr hcfg hnvm
  obtain ⟨plan, hplan, -⟩ := carryOut_no_error (s := s) (r := insertPlan s.cfg s.regs s.nvm) (by cases ht; exact herr)
  obtain ⟨hkey, n, x, hname, hx⟩ := insertPlan_checks hplan
  obtain ⟨hn, hzero, hfirst⟩ := nameLength_eq_some_iff.1 hname
  obtain ⟨t', ht', hfinished, hcount, htype, hbytes, hid, hmarks, hother, -⟩ :=
    ksInsertCompletes s n hn x hok hkey hzero hfirst hx
  obtain rfl : t' = t := by rw [ht] at ht'; cases ht'; rfl
  have hlive : ¬ Tomb t'.nvm x.slot := by rw [Tomb, markerAt, htype, hkey]; exact Bool.false_ne_true
  obtain ⟨hresolve, hindex⟩ := (chooseSlot_ok hx).resolve_index hlive hmarks fun q hq hq' =>
    hother _ (by unfold slotAddr; omega) (by unfold slotAddr; omega) (by unfold slotAddr; omega)
      fun y hy => mt slotAddr_inj.1 (hq' y hy)
  have hsmall := liveCount_le_of_choice hok hx
  rw [hfinished.result, result_toNat (by omega)]
  have hcfg : u.cfg = s.cfg := hcfg.trans hfinished.untouched.cfg
  obtain ⟨v, hv, hget, hgetType, -, hgetName, hgetId, -⟩ := ksGetCompletes x.index x.slot u (by rw [hnvm]; omega)
    (by rw [hnvm, hcfg]; exact hresolve)
  rw [hnvm] at hgetType hgetName hgetId
  refine ⟨v, hv, hget.err, hgetType.trans htype, Vector.ext fun j hj => (hgetId j hj).trans (hid j hj),
    fun k hk => ⟨fun hnonzero => ?_, ?_⟩⟩
  · have hkn : k ≤ n := not_lt.1 fun hnk => hnonzero n hnk hzero
    refine ((hgetName k hk).1 fun j hj hread => ?_).trans (hbytes k hkn)
    exact hnonzero j hj ((hbytes j (by omega)).symm.trans hread)
  · rintro ⟨j, hj, hjzero⟩
    have hnj : n ≤ j := not_lt.1 fun hjn => hfirst j hjn hjzero
    exact (hgetName k hk).2 ⟨n, by omega, (hbytes n le_rfl).trans hzero⟩

/-! ## KS_DELETE (R97 to R99) -/

/-- The byte writes of a delete: freed marker, counter, merge. -/
def deleteWrites (m : Memory) (p l r : Nat) : List Host.Cell :=
  memWrite (slotAddr p) 1 (marker 1).toNat ++ memWrite 0 2 (liveCount m - 1) ++ mergeWrites p l r

section
variable {m : Memory} {nslots n le p l r : Nat}

theorem deletePlan_of_neighbours (hn : n < liveCount m) (hle : logicalEnd m nslots = .ok le)
    (hp : resolve m nslots n = .ok p) (hside : neighbours m p le = .ok (l, r)) :
    deletePlan nslots m n = .ok { writes := deleteWrites m p l r, result := p } := by
  rw [deletePlan, if_neg hn.not_ge]
  simp only [hle, hp, hside, deleteWrites]

/-- The left run beside `p` does not reach below slot 0 (R97). -/
theorem left_le_of_neighbours (hside : neighbours m p le = .ok (l, r)) : l ≤ p := by
  unfold neighbours at hside
  split at hside
  · cases hside
  · next hleft =>
    split at hside <;> cases hside
    unfold leftRun at hleft
    split_ifs at hleft <;> cases hleft <;> omega

theorem liveCount_lt (m : Memory) : liveCount m < 65536 := by
  rw [liveCount_eq]
  omega

theorem liveCount_storeAll_delete (hpos : 0 < liveCount m) :
    liveCount (m.storeAll (deleteWrites m p l r)) + 1 = liveCount m := by
  have := liveCount_lt m
  rw [deleteWrites, Memory.storeAll_append, Memory.storeAll_append, liveCount_storeAll_merge,
    liveCount_storeAll_counter]
  omega

/-- A delete leaves the merged length at both ends of the merged run, and a run of one on the freed slot elsewhere. -/
theorem markerAt_storeAll_delete (q : Nat) : markerAt (m.storeAll (deleteWrites m p l r)) q =
    if (l ≠ 0 ∨ r ≠ 0) ∧ (q = p - l ∨ q = p + r) then marker (l + 1 + r)
    else if q = p then 0x81#8 else markerAt m q := by
  rw [deleteWrites, Memory.storeAll_append, Memory.storeAll_append, markerAt_storeAll_merge,
    markerAt_storeAll_counter, markerAt_storeAll_marker]
  rfl

/-- The counter and three markers are all a delete writes. -/
theorem read_storeAll_delete_other {a : Nat} (ha : 2 ≤ a) (hfreed : a ≠ slotAddr p) (hhead : a ≠ slotAddr (p - l))
    (htail : a ≠ slotAddr (p + r)) : (m.storeAll (deleteWrites m p l r)).read a = m.read a := by
  refine Memory.read_storeAll_other m _ a fun c hc => ?_
  rw [deleteWrites, List.mem_append, List.mem_append] at hc
  obtain (hc | hc) | hc := hc
  · exact mem_memWrite_one hc ▸ hfreed.symm
  · have := mem_memWrite hc
    omega
  · unfold mergeWrites at hc
    split at hc
    · cases hc
    · obtain hc | hc := List.mem_append.1 hc
      · exact mem_memWrite_one hc ▸ hhead.symm
      · exact mem_memWrite_one hc ▸ htail.symm

end

/-- A plan that passed the checks ends `KS_DELETE` (R98). -/
theorem exec_ksDelete_of_ok {s : State} {n : Nat} {plan : StorePlan} (h : deletePlan s.cfg.nslots s.nvm n = .ok plan) :
    exec (.ksDelete n) s = .next ((s.writeNvm plan.writes).finish (BitVec.ofNat 16 plan.result)) := by
  rw [exec, execKsDelete, h, State.carryOut_ok]

/-- Settles O46: the plan's writes (`deletePlan_of_neighbours`), the markers by `markerAt_storeAll_delete`. -/
theorem ksDeleteCompletes : Obligations.KsDeleteCompletes := by
  intro n s le p l r hn hle hp hside
  have hplan := deletePlan_of_neighbours hn hle hp hside
  have hl := left_le_of_neighbours hside
  have hmarks := markerAt_storeAll_delete (m := s.nvm) (p := p) (l := l) (r := r)
  refine ⟨_, exec_ksDelete_of_ok hplan, (Working.writeNvm (deletePlan_inTable hplan)).finishedWith _,
    liveCount_storeAll_delete (by omega), fun hl0 hr0 => ?alone, fun hmerge => ⟨?head, ?tail⟩, fun hl0 hr0 => ?interior,
    fun a ha => read_storeAll_delete_other ha, ⟨rfl, rfl, rfl, rfl, rfl⟩, ⟨rfl, rfl⟩⟩
  case alone => exact (hmarks p).trans (by rw [if_neg (by omega), if_pos rfl])
  case head => exact (hmarks (p - l)).trans (if_pos ⟨by omega, .inl rfl⟩)
  case tail => exact (hmarks (p + r)).trans (if_pos ⟨by omega, .inr rfl⟩)
  case interior => exact (hmarks p).trans (by rw [if_neg (by omega), if_pos rfl])

end Sys2Proof.Machine
end

section
/-! PROOFS. The bus primitive commands (R109 to R116): the events, bits and draws of several slots in a row, the `IMM`
bits a row admits, and what each command leaves when it completes. -/

namespace Sys2Proof.Machine

/-! ## Bits of a byte (R55, R109) -/

/-- The write slots of a byte carry its bits from bit 0 to bit 7 (R109). -/
theorem writeEvents_eq_map (v : Byte) : writeEvents v = (List.range 8).map fun k => Event.writeSlot (v.getLsbD k) := rfl

/-- The write slots of a byte operand carry the operand's low eight bits (R61, R113). -/
theorem writeEvents_byteOperand (v : Nat) :
    writeEvents (byteOperand v) = (List.range 8).map fun k => Event.writeSlot (v.testBit k) := by
  rw [writeEvents_eq_map]
  refine List.map_congr_left fun k hk => congrArg Event.writeSlot ?_
  rw [byteOperand, BitVec.getLsbD_ofNat, decide_eq_true (List.mem_range.1 hk), Bool.true_and]

/-- The first bit received is bit 0 of the byte, and a bit not received is 0. -/
theorem byteOfBits_getLsbD (bits : List Bool) {k : Nat} (hk : k < 8) :
    (byteOfBits bits).getLsbD k = bits.getD k false := by
  induction bits generalizing k with
  | nil => simp [byteOfBits]
  | cons b rest ih =>
    cases k with
    | zero => cases b <;> simp [byteOfBits]
    | succ k =>
      have hone : (if b then 1#8 else 0#8 : Byte).getLsbD (k + 1) = false := by cases b <;> simp
      rw [byteOfBits, BitVec.getLsbD_or, hone, BitVec.getLsbD_shiftLeft, Nat.add_sub_cancel,
        ih (Nat.lt_of_succ_lt hk)]
      simp [hk]

/-! ## Several slots in a row (R109, R115) -/

/-- `BusWriteByte(v)` appends the write slots of `v` and draws nothing (R109). -/
theorem Bus.writeByte_hist_env (t : Timing) (b : Bus) (v : Byte) :
    (b.writeByte t v).hist = b.hist ++ writeEvents v ∧ (b.writeByte t v).env = b.env :=
  b.writeSlots_hist_env t (bitsOfByte v)

/-- `WriteEnableSeq()` appends the events of `WE_FORM` and draws nothing (R115). -/
theorem Bus.writeEnableSeq_hist_env (c : Config) (b : Bus) :
    (b.writeEnableSeq c).hist = b.hist ++ writeEnableEvents c.weForm ∧ (b.writeEnableSeq c).env = b.env := by
  obtain ⟨hhist, henv⟩ := b.writeByte_hist_env c.timing cmdWriteEnable
  unfold Bus.writeEnableSeq
  cases c.weForm with
  | bytePlusPulse => exact ⟨(congrArg (· ++ [Event.wePulse]) hhist).trans (List.append_assoc ..), henv⟩
  | byteOnly => exact ⟨hhist, henv⟩
  | pulseOnly => exact ⟨rfl, rfl⟩

/-- Read slots in a row receive the environment's next bits, in the order drawn (R13, R107). -/
theorem Bus.readSlots_bits_env (t : Timing) (b : Bus) (n : Nat) :
    (b.readSlots t n).1 = (b.env.drawBits n).1 ∧ (b.readSlots t n).2.env = (b.env.drawBits n).2 := by
  induction n generalizing b with
  | zero => exact ⟨rfl, rfl⟩
  | succ n ih =>
    obtain ⟨hbits, henv⟩ := ih (b.readSlot t).2
    exact ⟨congrArg (_ :: ·) hbits, henv⟩

/-- `BusReadByte()` makes its byte of the next eight bits drawn and appends their read slots (R109). -/
theorem Bus.readByte_byte_hist_env (t : Timing) (b : Bus) :
    (b.readByte t).1 = byteOfBits (b.env.drawBits 8).1 ∧
    (b.readByte t).2.hist = b.hist ++ (b.env.drawBits 8).1.map Event.readSlot ∧
    (b.readByte t).2.env = (b.env.drawBits 8).2 := by
  obtain ⟨hbits, henv⟩ := b.readSlots_bits_env t 8
  have hhist := b.readSlots_hist t 8
  rw [hbits] at hhist
  exact ⟨congrArg byteOfBits hbits, hhist, henv⟩

/-! ## The `IMM` bits a row admits (R61, R64) -/

/-- A word of a row's opcode is `ILLEGAL` where it has a bit set that the row wants 0 (R64). -/
theorem decode_error_of_zero_bits {r : OpcodeRow} {w m : Word} (hr : r ∈ opcodeMap)
    (hopc : opcodeField w = opcodeField r.pattern) (hmask : r.mask &&& m = m) (hzero : r.pattern &&& m = 0#32)
    (hbits : w &&& m ≠ 0#32) : ∃ e, decode w = .error e :=
  decode_error_of_missed_row hr hopc fun hsel => hbits <| calc
    w &&& m = w &&& r.mask &&& m := by rw [BitVec.and_assoc, hmask]
    _ = r.pattern &&& m := by rw [OpcodeRow.selects_iff.1 hsel]
    _ = 0#32 := hzero

theorem owWriteBit_row_mem : ⟨0x02000000#32, 0xFFFFFFFE#32, .owWriteBit⟩ ∈ opcodeMap := by simp [opcodeMap]

theorem owWriteByte_row_mem : ⟨0x04000000#32, 0xFFFFFF00#32, .owWriteByte⟩ ∈ opcodeMap := by simp [opcodeMap]

/-- A word of the opcode of `OW_WRITE_BYTE` with the other bits 0 is that command with the word's operand (R62, R63). -/
theorem decode_owWriteByte (v : Byte) : decode (0x04000000#32 ||| v.setWidth 32) = .ok (.owWriteByte v.toNat) := by
  have hfit : (Instr.owWriteByte v.toNat).wellFormed = true := (Instr.wellFormed_iff _).2 (Nat.le_of_lt_succ v.isLt)
  rw [← BitVec.ofNat_toNat]
  exact decodeEncodeRoundTrip _ hfit

/-! ## The commands -/

/-- A bus primitive puts its slots on the bus, which only append to the history, and ends with `finish`: it leaves the
operand registers and the NVM as they are (R75, R79). -/
theorem State.finish_setBus_completes (s : State) {b : Bus} (hb : s.bus.hist <+: b.hist) (v : Half) :
    FinishedWith s ((s.setBus b).finish v) v ∧ SameOperands s ((s.setBus b).finish v) ∧
    SameNvm s ((s.setBus b).finish v) :=
  ⟨((Working.refl s).setBus hb).finishedWith v, ⟨rfl, rfl, rfl, rfl, rfl⟩, fun _ => rfl⟩

/-- Settles O23: eight read slots draw the bits (`Bus.readByte_byte_hist_env`) that the byte is made of
(`byteOfBits_getLsbD`). -/
theorem owReadByteCompletes : Obligations.OwReadByteCompletes := by
  refine ⟨fun s => ?_, rfl⟩
  obtain ⟨hbyte, hhist, henv⟩ := s.bus.readByte_byte_hist_env s.cfg.timing
  obtain ⟨hfinished, hoperands, hnvm⟩ := s.finish_setBus_completes (s.bus.readSlots_prefix s.cfg.timing 8)
    (byteResult (s.bus.readByte s.cfg.timing).1)
  refine ⟨_, (s.bus.readByte s.cfg.timing).1, rfl, fun k hk => ?_, hfinished, hhist, henv, hoperands, hnvm⟩
  rw [hbyte, byteOfBits_getLsbD _ hk]

/-- Settles O22: the write slots of the operand's low byte (`writeEvents_byteOperand`), and the row of
`OW_WRITE_BYTE`. -/
theorem owWriteByteCompletes : Obligations.OwWriteByteCompletes := by
  refine ⟨fun v s => ?_, decode_owWriteByte, fun w hopc =>
    decode_error_of_zero_bits owWriteByte_row_mem hopc (by decide) (by decide)⟩
  obtain ⟨hhist, henv⟩ := s.bus.writeByte_hist_env s.cfg.timing (byteOperand v)
  obtain ⟨hfinished, hoperands, hnvm⟩ := s.finish_setBus_completes
    (s.bus.writeByte_prefix s.cfg.timing (byteOperand v)) 0#16
  rw [writeEvents_byteOperand] at hhist
  exact ⟨_, rfl, hfinished, hhist, henv, hoperands, hnvm⟩

/-- Settles O24: the events of `WE_FORM` (`Bus.writeEnableSeq_hist_env`), form by form. -/
theorem owWriteEnableCompletes : Obligations.OwWriteEnableCompletes := by
  refine ⟨fun s => ?_, rfl⟩
  obtain ⟨hhist, henv⟩ := s.bus.writeEnableSeq_hist_env s.cfg
  obtain ⟨hfinished, hoperands, hnvm⟩ := s.finish_setBus_completes (s.bus.writeEnableSeq_prefix s.cfg) 0#16
  refine ⟨_, rfl, hfinished, fun hform => ?both, fun hform => ?byte, fun hform => ?pulse, henv, hoperands, hnvm⟩
  all_goals rw [hform] at hhist
  case both => exact hhist.trans (List.append_assoc ..).symm
  case byte => exact hhist
  case pulse => exact hhist

/-- Settles O20: one write slot (`Bus.writeSlot_eq`) with bit 0 of the operand, and the row of `OW_WRITE_BIT`. -/
theorem owWriteBitCompletes : Obligations.OwWriteBitCompletes := by
  refine ⟨fun b s => ?_, rfl, rfl, fun w hopc =>
    decode_error_of_zero_bits owWriteBit_row_mem hopc (by decide) (by decide)⟩
  obtain ⟨hfinished, hoperands, hnvm⟩ := s.finish_setBus_completes
    (b := s.bus.writeSlot s.cfg.timing (bitOperand b)) (List.prefix_append ..) 0#16
  exact ⟨_, rfl, hfinished, rfl, rfl, hoperands, hnvm⟩

/-- Settles O19: one reset slot (`Bus.resetSlot_eq`), whose presence draw is the result. -/
theorem owResetCompletes : Obligations.OwResetCompletes := by
  refine ⟨fun s => ?_, rfl⟩
  obtain ⟨hfinished, hoperands, hnvm⟩ := s.finish_setBus_completes (s.bus.resetSlot_prefix s.cfg.timing)
    (bitResult s.bus.env.drawPresence.1)
  exact ⟨_, rfl, hfinished, rfl, rfl, hoperands, hnvm⟩

/-- Settles O21: one read slot (`Bus.readSlot_eq`), whose bit is the result. -/
theorem owReadBitCompletes : Obligations.OwReadBitCompletes := by
  refine ⟨fun s => ?_, rfl⟩
  obtain ⟨hfinished, hoperands, hnvm⟩ := s.finish_setBus_completes
    (b := (s.bus.readSlot s.cfg.timing).2) (List.prefix_append ..) (bitResult s.bus.env.drawBit.1)
  exact ⟨_, rfl, hfinished, rfl, rfl, hoperands, hnvm⟩

end Sys2Proof.Machine
end

section
/-! PROOFS. The identity reads and the clone write (R120 to R126): what a raw read receives and puts on the bus, what
the clone sequence sends, and how each of the three commands ends. -/

namespace Sys2Proof.Machine

/-! ## Bytes and their bits (R55) -/

theorem byteOfBits_bitsOfByte (v : Byte) : byteOfBits (bitsOfByte v) = v :=
  BitVec.eq_of_getLsbD_eq fun k hk => by
    rw [byteOfBits_getLsbD _ hk]
    interval_cases k <;> rfl

/-- Bits that begin with those of a whole byte begin with that byte (R55). -/
theorem bytesOfBits_append {bits : List Bool} (h : bits.length = 8) (n : Nat) (more : List Bool) :
    bytesOfBits (n + 1) (bits ++ more) = byteOfBits bits :: bytesOfBits n more := by
  rw [bytesOfBits, List.take_left' h, List.drop_left' h]

/-- Bytes sent bit by bit are the bytes received (R55, R109). -/
theorem bytesOfBits_bitsOfBytes (bytes : List Byte) : bytesOfBits bytes.length (bitsOfBytes bytes) = bytes := by
  induction bytes with
  | nil => rfl
  | cons v rest ih => rw [List.length_cons, bitsOfBytes, bytesOfBits_append rfl, byteOfBits_bitsOfByte, ih]

theorem identityOf_eq_of_toList {rb : Vector Byte 8} {bytes : List Byte} (h : rb.toList = bytes) :
    identityOf bytes = rb := by
  subst h
  refine Vector.ext fun j hj => ?_
  rw [identityOf_getElem _ hj]
  simp [hj]

/-! ## Read slots in a row (R107, R109) -/

theorem Env.drawBits_length (e : Env) (n : Nat) : (e.drawBits n).1.length = n := by
  induction n generalizing e with
  | zero => rfl
  | succ n ih => exact congrArg (· + 1) (ih _)

theorem Env.drawBits_add (e : Env) (m n : Nat) :
    e.drawBits (m + n) = ((e.drawBits m).1 ++ ((e.drawBits m).2.drawBits n).1, ((e.drawBits m).2.drawBits n).2) := by
  induction m generalizing e with
  | zero => simp [Env.drawBits]
  | succ m ih => simp [Nat.add_right_comm m 1 n, Env.drawBits, ih]

/-- `n` bytes received are made of the next 8 × n bits drawn (R55, R109). -/
theorem Bus.readBytes_bytes_hist_env (t : Timing) (b : Bus) (n : Nat) :
    (b.readBytes t n).1 = bytesOfBits n (b.env.drawBits (8 * n)).1 ∧
    (b.readBytes t n).2.hist = b.hist ++ (b.env.drawBits (8 * n)).1.map Event.readSlot ∧
    (b.readBytes t n).2.env = (b.env.drawBits (8 * n)).2 := by
  induction n generalizing b with
  | zero => exact ⟨rfl, (List.append_nil _).symm, rfl⟩
  | succ n ih =>
    obtain ⟨hbyte, hhist, henv⟩ := b.readByte_byte_hist_env t
    obtain ⟨hbytes, hhists, henvs⟩ := ih (b.readByte t).2
    rw [henv] at hbytes hhists henvs
    rw [show 8 * (n + 1) = 8 + 8 * n by omega, Env.drawBits_add, bytesOfBits_append (Env.drawBits_length _ 8)]
    refine ⟨?_, ?_, henvs⟩
    · rw [Bus.readBytes, hbyte, hbytes]
    · rw [Bus.readBytes, hhists, hhist, List.map_append, List.append_assoc]

/-! ## `read_rom_raw()` (R120) -/

section
variable {s : State} {e : Env}

/-- A raw read without presence is its reset slot. -/
theorem State.readRomRaw_absent (h : s.bus.env.drawPresence = (false, e)) :
    ∃ q, s.readRomRaw = (false, s.setBus q) ∧ q.hist = s.bus.hist ++ [.resetSlot false] ∧ q.env = e := by
  refine ⟨⟨.released, s.bus.hist ++ [.resetSlot false], e⟩, ?_, rfl, rfl⟩
  simp [State.readRomRaw, Bus.readRomRaw, Bus.resetSlot_eq, h]

/-- A raw read with presence leaves the bytes received in `RBBUF`. -/
theorem State.readRomRaw_present {bits : List Bool} {rb : Vector Byte 8} (h : s.bus.env.drawPresence = (true, e))
    (hbits : (e.drawBits 64).1 = bits) (hrb : rb.toList = bytesOfBits 8 bits) :
    ∃ q, s.readRomRaw = (true, (s.setBus q).setRbbuf rb) ∧
      q.hist = s.bus.hist ++ [.resetSlot true] ++ readRomEvents bits ∧ q.env = (e.drawBits 64).2 := by
  obtain ⟨hcmd, hcmdEnv⟩ := Bus.writeByte_hist_env s.cfg.timing (s.bus.resetSlot s.cfg.timing).2 cmdReadRom
  obtain ⟨hbytes, hhist, henv⟩ := Bus.readBytes_bytes_hist_env s.cfg.timing
    ((s.bus.resetSlot s.cfg.timing).2.writeByte s.cfg.timing cmdReadRom) 8
  simp only [Bus.resetSlot_eq, h] at hcmd hcmdEnv hbytes hhist henv
  rw [hcmdEnv, hbits] at hbytes hhist
  rw [hcmdEnv] at henv
  refine ⟨_, ?_, hhist.trans ?_, henv⟩
  · simp only [State.readRomRaw, Bus.readRomRaw, Bus.resetSlot_eq, h, if_true]
    rw [hbytes, identityOf_eq_of_toList hrb]
  · rw [hcmd, List.append_assoc]
    rfl

end

/-! ## Errors raised after work on the bus (R147) -/

theorem Working.runningWord {s u : State} (h : Working s u) : u.runningWord = s.runningWord := by
  simp only [State.runningWord, h.seq, h.untouched.cmd]

/-- A command that ends its work with `raise` leaves what R147 says. -/
theorem Working.failedWith {s u : State} (h : Working s u) (e : CmdError) : FailedWith s (u.raise e) e :=
  { u.raise_failedWith e with
    untouched := { h.untouched with }
    fault := by simp [h.status]
    hazard := by simp [h.status]
    frec := by rw [← h.frec, ← h.runningWord]; exact (u.raise_failedWith e).frec }

/-! ## OW_READ_ID and OW_READ_RAW (R121 to R123) -/

section
variable {s : State}

theorem State.checkIdentity_of_wrong_family (h : s.regs.rbbuf[0] ≠ s.cfg.familyCode) :
    s.checkIdentity = s.raise (.wrongFamily s.regs.rbbuf[0]) := if_pos h

theorem State.checkIdentity_of_bad_checksum (hfamily : s.regs.rbbuf[0] = s.cfg.familyCode)
    (hcrc : crc8 (s.regs.rbbuf.toList.take 7) ≠ s.regs.rbbuf[7]) : s.checkIdentity = s.raise .badChecksum :=
  (if_neg (not_not.2 hfamily)).trans (if_pos hcrc)

theorem State.checkIdentity_of_ok (hfamily : s.regs.rbbuf[0] = s.cfg.familyCode)
    (hcrc : crc8 (s.regs.rbbuf.toList.take 7) = s.regs.rbbuf[7]) :
    s.checkIdentity = (s.setIdbuf s.regs.rbbuf).finish 0#16 :=
  (if_neg (not_not.2 hfamily)).trans (if_neg (not_not.2 hcrc))

variable {u : State}

theorem exec_owReadId_absent (h : s.readRomRaw = (false, u)) : exec .owReadId s = .next (u.raise .noDevice) := by
  simp [exec, execOwReadId, h]

theorem exec_owReadId_present (h : s.readRomRaw = (true, u)) : exec .owReadId s = .next u.checkIdentity := by
  simp [exec, execOwReadId, h]

theorem exec_owReadRaw_absent (h : s.readRomRaw = (false, u)) : exec .owReadRaw s = .next (u.raise .noDevice) := by
  simp [exec, execOwReadRaw, h]

theorem exec_owReadRaw_present (h : s.readRomRaw = (true, u)) : exec .owReadRaw s = .next (u.finish 0#16) := by
  simp [exec, execOwReadRaw, h]

/-- A raw read is work on the bus and `RBBUF`. -/
theorem Working.of_readRomRaw {seen : Bool} (h : s.readRomRaw = (seen, u)) : Working s u := by
  have work := (Working.refl s).readRomRaw
  rwa [h] at work

end

/-- Legal parameters never expect family 0x02 (R8, R122). -/
theorem Config.ok_familyCode {c : Config} (h : c.ok = true) : c.familyCode ≠ 0x02#8 := by
  simp only [Config.ok, Bool.and_eq_true, bne_iff_ne] at h
  exact h.1.2

/-- Settles O25: the raw read (`State.readRomRaw_present`), and checks that both pass
(`State.checkIdentity_of_ok`). -/
theorem owReadIdSucceeds : Obligations.OwReadIdSucceeds := by
  intro s e bits rb hpresence hbits hrb hfamily hcrc
  obtain ⟨q, hread, hhist, henv⟩ := State.readRomRaw_present hpresence hbits hrb
  have hcheck := State.checkIdentity_of_ok (s := (s.setBus q).setRbbuf rb) hfamily hcrc
  exact ⟨_, (exec_owReadId_present hread).trans (congrArg _ hcheck),
    ((Working.of_readRomRaw hread).setIdbuf rb).finishedWith _, rfl, rfl, hhist, henv, rfl, rfl, rfl, fun _ => rfl⟩

/-- Settles O26: no presence (`State.readRomRaw_absent`), and of the checks on the bytes received the family comes
first (`State.checkIdentity_of_wrong_family`), then the CRC (`State.checkIdentity_of_bad_checksum`). -/
theorem owReadIdFailures : Obligations.OwReadIdFailures := by
  refine ⟨fun s e hpresence => ?absent, fun s e bits rb hpresence hbits hrb hbad => ?present⟩
  case absent =>
    obtain ⟨q, hread, hhist, henv⟩ := State.readRomRaw_absent hpresence
    exact ⟨_, exec_owReadId_absent hread, (Working.of_readRomRaw hread).failedWith _, ⟨rfl, rfl, rfl, rfl, rfl⟩,
      fun _ => rfl, hhist, henv⟩
  case present =>
    obtain ⟨q, hread, hhist, henv⟩ := State.readRomRaw_present hpresence hbits hrb
    have hexec := exec_owReadId_present hread
    have work := Working.of_readRomRaw hread
    by_cases hfamily : rb[0] = s.cfg.familyCode
    · have hcrc := hbad.resolve_left (not_not.2 hfamily)
      rw [State.checkIdentity_of_bad_checksum (s := (s.setBus q).setRbbuf rb) hfamily hcrc] at hexec
      exact ⟨_, hexec, fun hne => absurd hfamily hne, fun _ => work.failedWith _,
        fun hok htwo => absurd (hfamily.symm.trans htwo) (Config.ok_familyCode hok), rfl, rfl, rfl, rfl, rfl,
        fun _ => rfl, hhist, henv⟩
    · rw [State.checkIdentity_of_wrong_family (s := (s.setBus q).setRbbuf rb) hfamily] at hexec
      exact ⟨_, hexec, fun _ => work.failedWith _, fun heq => absurd heq hfamily,
        fun _ htwo => htwo ▸ work.failedWith (.wrongFamily rb[0]), rfl, rfl, rfl, rfl, rfl, fun _ => rfl, hhist, henv⟩

/-- Settles O27: the raw read alone (`State.readRomRaw_present`, `State.readRomRaw_absent`). -/
theorem owReadRawCompletes : Obligations.OwReadRawCompletes := by
  refine ⟨fun s e bits rb hpresence hbits hrb => ?_, fun s e hpresence => ?_, rfl⟩
  · obtain ⟨q, hread, hhist, henv⟩ := State.readRomRaw_present hpresence hbits hrb
    exact ⟨_, exec_owReadRaw_present hread, (Working.of_readRomRaw hread).finishedWith _, rfl, rfl, rfl, rfl, rfl,
      fun _ => rfl, hhist, henv⟩
  · obtain ⟨q, hread, hhist, henv⟩ := State.readRomRaw_absent hpresence
    exact ⟨_, exec_owReadRaw_absent hread, (Working.of_readRomRaw hread).failedWith _, ⟨rfl, rfl, rfl, rfl, rfl⟩,
      fun _ => rfl, hhist, henv⟩

/-! ## OW_CLONE_WRITE (R124 to R126) -/

/-- Without presence nothing is sent (R124). -/
theorem Bus.cloneSeq_absent {b : Bus} {e : Env} (h : b.env.drawPresence = (false, e)) (c : Config)
    (id : Vector Byte 8) : ∃ q, b.cloneSeq c id = (false, q) ∧ q.hist = b.hist ++ [.resetSlot false] ∧ q.env = e := by
  refine ⟨⟨.released, b.hist ++ [.resetSlot false], e⟩, ?_, rfl, rfl⟩
  simp [Bus.cloneSeq, Bus.resetSlot_eq, h]

/-- With presence the identity is sent with its fresh CRC, and nothing is drawn (R124). -/
theorem Bus.cloneSeq_present {b : Bus} {e : Env} (h : b.env.drawPresence = (true, e)) (c : Config)
    (id : Vector Byte 8) : ∃ q, b.cloneSeq c id = (true, q) ∧
      q.hist = b.hist ++ [.resetSlot true] ++ cloneEvents c id ∧ q.env = e := by
  refine ⟨_, by simp only [Bus.cloneSeq, Bus.resetSlot_eq, h, if_true]; rfl, ?_, ?_⟩
  · simp [Bus.writeEnableSeq_hist_env, Bus.programSlots_hist_env, Bus.writeByte_hist_env, cloneEvents, cloneBits,
      cloneBytes, Function.comp_def, cmdSkipRom, cmdLoadBuffer]
  · simp [Bus.writeEnableSeq_hist_env, Bus.programSlots_hist_env, Bus.writeByte_hist_env]

section
variable {s u : State} {q : Bus}

theorem exec_owCloneWrite_absent (h : s.bus.cloneSeq s.cfg s.regs.idbuf = (false, q)) :
    exec .owCloneWrite s = .next ((s.setBus q).raise .noDevice) := by
  simp [exec, execOwCloneWrite, h]

theorem exec_owCloneWrite_present (h : s.bus.cloneSeq s.cfg s.regs.idbuf = (true, q)) :
    exec .owCloneWrite s = .next (s.setBus q).cloneVerify := by
  simp [exec, execOwCloneWrite, h]

/-- The clone sequence is work on the bus. -/
theorem Working.of_cloneSeq {seen : Bool} (h : s.bus.cloneSeq s.cfg s.regs.idbuf = (seen, q)) :
    Working s (s.setBus q) := by
  have hprefix := Bus.cloneSeq_prefix s.cfg s.regs.idbuf s.bus
  rw [h] at hprefix
  exact (Working.refl s).setBus hprefix

theorem State.cloneVerify_absent (h : s.readRomRaw = (false, u)) : s.cloneVerify = u.raise .noDevice := by
  simp [State.cloneVerify, h]

theorem State.cloneVerify_of_eq (h : s.readRomRaw = (true, u)) (heq : u.regs.rbbuf = u.regs.idbuf) :
    s.cloneVerify = u.finish 0#16 := by
  simp [State.cloneVerify, h, heq]

theorem State.cloneVerify_of_ne (h : s.readRomRaw = (true, u)) (hne : u.regs.rbbuf ≠ u.regs.idbuf) :
    s.cloneVerify = u.raise .verifyMismatch := by
  simp [State.cloneVerify, h, hne]

end

/-- A key that answers both resets is sent the identity, and its read-back stands in `RBBUF` (R124, R125). -/
theorem clone_read_back {s : State} {e1 e2 : Env} {bits : List Bool} {rb : Vector Byte 8}
    (hpresence : s.bus.env.drawPresence = (true, e1)) (hagain : e1.drawPresence = (true, e2))
    (hbits : (e2.drawBits 64).1 = bits) (hrb : rb.toList = bytesOfBits 8 bits) :
    ∃ q q', s.bus.cloneSeq s.cfg s.regs.idbuf = (true, q) ∧
      (s.setBus q).readRomRaw = (true, ((s.setBus q).setBus q').setRbbuf rb) ∧
      Working s (((s.setBus q).setBus q').setRbbuf rb) ∧
      q'.hist = s.bus.hist ++ [.resetSlot true] ++ cloneEvents s.cfg s.regs.idbuf ++ [.resetSlot true]
        ++ readRomEvents bits ∧
      q'.env = (e2.drawBits 64).2 := by
  obtain ⟨q, hclone, hsent, hdraws⟩ := Bus.cloneSeq_present hpresence s.cfg s.regs.idbuf
  obtain ⟨q', hread, hhist, henv⟩ :=
    State.readRomRaw_present (s := s.setBus q) ((congrArg Env.drawPresence hdraws).trans hagain) hbits hrb
  have work := (Working.of_cloneSeq hclone).readRomRaw
  rw [hread] at work
  exact ⟨q, q', hclone, hread, work, by rw [hhist, State.setBus_bus, hsent], henv⟩

/-- The read-back is no `IDBUF` where byte 7 is stale and the key gives back what it was sent (R126). -/
theorem ne_idbuf_of_stale_crc {id rb : Vector Byte 8} (hstale : id[7] ≠ crc8 (id.toList.take 7))
    (hrb : rb.toList = bytesOfBits 8 (bitsOfBytes (cloneBytes id))) : rb ≠ id := by
  rintro rfl
  have hsent : rb.toList = cloneBytes rb := by
    have hlen : (cloneBytes rb).length = 8 := by simp [cloneBytes, identityBody]
    rw [hrb, ← hlen, bytesOfBits_bitsOfBytes]
  have hlast : rb.toList[7]? = some (crc8 (rb.toList.take 7)) := by
    rw [hsent, cloneBytes, identityBody, List.getElem?_append_right (by simp)]
    simp
  exact hstale (by simpa using hlast)

/-- Settles O28: the sequence sent and the read-back (`clone_read_back`), which equals `IDBUF`. -/
theorem owCloneWriteSucceeds : Obligations.OwCloneWriteSucceeds := by
  intro s e1 e2 bits hpresence hagain hbits hrb
  obtain ⟨q, q', hclone, hread, work, hhist, henv⟩ := clone_read_back hpresence hagain hbits hrb
  exact ⟨_, (exec_owCloneWrite_present hclone).trans (congrArg _ (State.cloneVerify_of_eq hread rfl)),
    work.finishedWith _, rfl, rfl, rfl, rfl, rfl, fun _ => rfl, hhist, henv⟩

/-- Settles O29: no presence at the first reset (`Bus.cloneSeq_absent`) or at the second (`State.readRomRaw_absent`),
and a read-back (`clone_read_back`) other than `IDBUF`, as with a stale CRC (`ne_idbuf_of_stale_crc`). -/
theorem owCloneWriteFailures : Obligations.OwCloneWriteFailures := by
  refine ⟨fun s e hpresence => ?first, fun s e1 e2 hpresence hagain => ?second,
    fun s e1 e2 bits rb hpresence hagain hbits hrb hbad => ?verify⟩
  case first =>
    obtain ⟨q, hclone, hhist, henv⟩ := Bus.cloneSeq_absent hpresence s.cfg s.regs.idbuf
    exact ⟨_, exec_owCloneWrite_absent hclone, (Working.of_cloneSeq hclone).failedWith _, ⟨rfl, rfl, rfl, rfl, rfl⟩,
      fun _ => rfl, hhist, henv⟩
  case second =>
    obtain ⟨q, hclone, hsent, hdraws⟩ := Bus.cloneSeq_present hpresence s.cfg s.regs.idbuf
    obtain ⟨q', hread, hhist, henv⟩ :=
      State.readRomRaw_absent (s := s.setBus q) ((congrArg Env.drawPresence hdraws).trans hagain)
    have work := (Working.of_cloneSeq hclone).readRomRaw
    rw [hread] at work
    rw [State.setBus_bus, hsent] at hhist
    exact ⟨_, (exec_owCloneWrite_present hclone).trans (congrArg _ (State.cloneVerify_absent hread)),
      work.failedWith _, ⟨rfl, rfl, rfl, rfl, rfl⟩, fun _ => rfl, hhist, henv⟩
  case verify =>
    have hne : rb ≠ s.regs.idbuf := hbad.elim id fun ⟨hstale, hgiven⟩ => ne_idbuf_of_stale_crc hstale (hgiven ▸ hrb)
    obtain ⟨q, q', hclone, hread, work, hhist, -⟩ := clone_read_back hpresence hagain hbits hrb
    exact ⟨_, (exec_owCloneWrite_present hclone).trans (congrArg _ (State.cloneVerify_of_ne hread hne)),
      work.failedWith _, rfl, rfl, rfl, rfl, rfl, fun _ => rfl, hhist⟩

end Sys2Proof.Machine
end

section
/-! PROOFS. The passes of `OW_EMULATE_POLL` that end with a result (R128 to R132): no reset seen, the identity sent,
another command byte, and a transaction the master restarts. -/

namespace Sys2Proof.Machine

/-! ## The end of a pass (R131) -/

/-- A pass that sees no reset ends at once (R128). -/
theorem emuPass_of_no_reset {env e : Env} {x : LineSample} (h : env.drawSample = (x, e)) (hx : x ≠ .reset) (c : Config)
    (id : Vector Byte 8) : emuPass c id env =
      ({ actions := [.saw (sampleSeen x)], rest := e.master, ending := .code 0x0000#16 }, e) := by
  simp [emuPass, h, hx]

/-- A pass with a result leaves its events in the history, and the operand registers and the NVM as they are (R128). -/
theorem owEmulatePoll_completes {s : State} {r : EmuRun} {env : Env} {v : Half}
    (h : emuPass s.cfg s.regs.idbuf s.bus.env = (r, env)) (hend : r.ending = .code v) :
    ∃ t, exec .owEmulatePoll s = .next t ∧ FinishedWith s t v ∧
      t.bus.hist = s.bus.hist ++ r.actions.map SlaveAction.event ∧ t.bus.env = env ∧ SameOperands s t ∧
      SameNvm s t := by
  have hexec := exec_owEmulatePoll_code (s := s) (v := v) (by rw [h, hend])
  rw [h] at hexec
  obtain ⟨hfinished, hoperands, hnvm⟩ := s.finish_setBus_completes (b := s.bus.emulated r.actions env) (by simp) v
  exact ⟨_, hexec, hfinished, s.bus.emulated_hist r.actions env, rfl, hoperands, hnvm⟩

/-- Settles O30, by `emuPass_of_no_reset`. -/
theorem emulateNoReset : Obligations.EmulateNoReset := by
  intro s x e hlook hx
  exact owEmulatePoll_completes (emuPass_of_no_reset hlook hx s.cfg s.regs.idbuf) rfl

/-! ## The identity sent (R130) -/

section
variable (c : Config) (id : Vector Byte 8)

/-- The last identity slot is answered, and ends the pass with `IDENTITY_SENT` (R130, R131). -/
theorem emuRun_identity_last {x : MasterEvent} (hx : x = .short ∨ x = .long) (rest : List MasterEvent) :
    emuRun c id (.identity 63) (x :: rest) =
      { actions := [.saw (masterSeen x), .bit (identityBit id 63)], rest := rest, ending := .code 0x0002#16 } := by
  obtain rfl | rfl := hx <;> rfl

/-- The slots from identity bit `k` to the last are answered with the bits from `k` on (R130). -/
theorem emuRun_identity_sent {slots : List MasterEvent} (hslots : ∀ x ∈ slots, x = .short ∨ x = .long)
    (rest : List MasterEvent) {k : Nat} (hk : k < 64) (hlen : k + slots.length = 64) :
    emuRun c id (.identity k) (slots ++ rest) =
      { actions := answerActions slots ((bitsOfBytes id.toList).drop k), rest := rest, ending := .code 0x0002#16 } := by
  induction slots generalizing k with
  | nil => exact absurd hlen (by simpa using hk.ne)
  | cons x more ih =>
    rw [List.forall_mem_cons] at hslots
    rw [List.length_cons] at hlen
    rw [List.cons_append, identityBits_drop id hk]
    by_cases hlast : k = 63
    · obtain rfl : more = [] := List.length_eq_zero_iff.1 (by omega)
      rw [hlast, List.nil_append, emuRun_identity_last c id hslots.1]
      simp [answerActions]
    · rw [emuRun_identity_slot c id (by omega) hslots.1, ih hslots.2 (by omega) (by omega)]
      simp [EmuRun.after, answerActions]

end

/-- Settles O31: the command byte (`emuRun_readRom`) leads to the identity slots (`emuRun_identity_sent`). -/
theorem emulateIdentitySent : Obligations.EmulateIdentitySent := by
  intro s e slots rest hlook hahead hlen hslots
  have hpass := emuPass_of_reset hlook s.cfg s.regs.idbuf
  rw [hahead, List.append_assoc, emuRun_readRom,
    emuRun_identity_sent s.cfg s.regs.idbuf hslots rest (by decide) (by rw [hlen])] at hpass
  obtain ⟨t, hexec, hfinished, hhist, henv, hoperands, hnvm⟩ := owEmulatePoll_completes hpass rfl
  refine ⟨t, hexec, hfinished, ?_, henv ▸ rfl, hoperands, hnvm⟩
  simp only [EmuRun.after_actions, List.map_append, answerActions_events, List.drop_zero] at hhist
  simpa [emuRestart, SlaveAction.event, Function.comp_def] using hhist

/-! ## Another command byte (R129) -/

section
variable (c : Config) (id : Vector Byte 8) (cmd : Byte) (b : Bool)

/-- A slot of the command byte puts its bit in place (R129). -/
theorem commandWith_getLsbD {i j : Nat} (hj : j < 8) :
    (commandWith cmd i b).getLsbD j = (cmd.getLsbD j || (b && decide (j = i))) := by
  cases b with
  | false => simp [commandWith]
  | true =>
    rw [commandWith, if_pos rfl, BitVec.getLsbD_or, ← BitVec.twoPow_eq, BitVec.getLsbD_twoPow]
    by_cases hij : i = j
    · simp [hij, hj]
    · simp [hij, Ne.symm hij]

/-- A bit of the command byte but the last (R129). -/
theorem emuRun_command_bit {i : Nat} (hi : i < 7) (rest : List MasterEvent) :
    emuRun c id (.command i cmd) (slotFor b :: rest) =
      (emuRun c id (.command (i + 1) (commandWith cmd i b)) rest).after [.saw (masterSeen (slotFor b))] := by
  cases b <;> simp [slotFor, emuRun, hi, masterSeen]

/-- The last bit of a command byte other than 0x33 ends the pass with `OTHER_COMMAND` (R129, R131). -/
theorem emuRun_command_last (hother : commandWith cmd 7 b ≠ cmdReadRom) (rest : List MasterEvent) :
    emuRun c id (.command 7 cmd) (slotFor b :: rest) =
      { actions := [.saw (masterSeen (slotFor b))], rest := rest,
        ending := .code (otherCommand (commandWith cmd 7 b)) } := by
  cases b <;> simp [slotFor, emuRun, masterSeen, hother]

/-- The eight bits of a byte, put in place from bit 0 on, make the byte (R129). -/
theorem commandWith_bits (v : Byte) : commandWith (commandWith (commandWith (commandWith (commandWith (commandWith
    (commandWith (commandWith 0#8 0 (v.getLsbD 0)) 1 (v.getLsbD 1)) 2 (v.getLsbD 2)) 3 (v.getLsbD 3))
    4 (v.getLsbD 4)) 5 (v.getLsbD 5)) 6 (v.getLsbD 6)) 7 (v.getLsbD 7) = v :=
  BitVec.eq_of_getLsbD_eq fun j hj => by
    simp only [commandWith_getLsbD _ _ hj]
    interval_cases j <;> simp

/-- A command byte other than 0x33 is seen bit by bit and ends the pass with `OTHER_COMMAND` (R129, R131). -/
theorem emuRun_other_command {v : Byte} (hv : v ≠ cmdReadRom) (rest : List MasterEvent) :
    emuRun c id (.command 0 0#8) ((bitsOfByte v).map slotFor ++ rest) =
      { actions := (bitsOfByte v).map fun b => .saw (masterSeen (slotFor b)), rest := rest,
        ending := .code (otherCommand v) } := by
  have hlast := emuRun_command_last c id _ (v.getLsbD 7) (by rwa [commandWith_bits v]) rest
  rw [commandWith_bits] at hlast
  simp only [bitsOfByte, List.map_cons, List.map_nil, List.cons_append, List.nil_append, emuRun_command_bit,
    Nat.reduceLT, Nat.reduceAdd, hlast, EmuRun.after]

end

/-- `RESULT` of `OTHER_COMMAND` is 1 with the command byte above it (R131). -/
theorem otherCommand_toNat (cmd : Byte) : (otherCommand cmd).toNat = 1 + 256 * cmd.toNat := by
  have hhigh : ((cmd.setWidth 16 <<< 8 : Half)).toNat = 2 ^ 8 * cmd.toNat := by
    have hcmd := cmd.isLt
    rw [BitVec.toNat_shiftLeft, BitVec.toNat_setWidth_of_le (by decide), Nat.shiftLeft_eq]
    omega
  rw [otherCommand, BitVec.toNat_or, hhigh, Nat.or_comm, ← Nat.two_pow_add_eq_or_of_lt (by decide), Nat.add_comm]
  rfl

/-- Settles O32, by `emuRun_other_command`. -/
theorem emulateOtherCommand : Obligations.EmulateOtherCommand := by
  intro s e v rest hlook hahead hv
  have hpass := emuPass_of_reset hlook s.cfg s.regs.idbuf
  rw [hahead, emuRun_other_command s.cfg s.regs.idbuf hv] at hpass
  obtain ⟨t, hexec, hfinished, hhist, henv, hoperands, hnvm⟩ := owEmulatePoll_completes hpass rfl
  refine ⟨t, hexec, ?_, ?_, henv ▸ rfl, hoperands, hnvm⟩
  · rwa [← otherCommand_toNat, BitVec.ofNat_toNat, BitVec.setWidth_eq]
  · simpa [emuRestart, SlaveAction.event, Function.comp_def] using hhist

/-! ## The results a pass can have (R131) -/

/-- The results of R131: `NO_RESET`, `OTHER_COMMAND` with a byte other than 0x33, `IDENTITY_SENT`, `TIMEOUT`. -/
inductive PassResult : Half → Prop where
  | noReset : PassResult 0x0000#16
  | otherCommand (cmd : Byte) (h : cmd ≠ cmdReadRom) : PassResult (otherCommand cmd)
  | identitySent : PassResult 0x0002#16
  | timeout : PassResult 0x0003#16

theorem emuRun_result {c : Config} {id : Vector Byte 8} {p : EmuPhase} {events : List MasterEvent} {v : Half}
    (h : (emuRun c id p events).ending = .code v) : PassResult v := by
  fun_induction emuRun c id p events with
  | case1 | case2 =>
    unfold emuSilence at h
    split at h <;> cases h
    exact .timeout
  | case3 => cases h
  | case7 | case10 => cases h; exact .otherCommand _ ‹_›
  | case12 | case14 => cases h; exact .identitySent
  | case4 | case5 | case6 | case8 | case9 | case11 | case13 =>
    rename_i ih
    exact ih h

theorem emuPass_result {c : Config} {id : Vector Byte 8} {env : Env} {v : Half}
    (h : (emuPass c id env).1.ending = .code v) : PassResult v := by
  unfold emuPass at h
  dsimp only at h
  split_ifs at h
  · exact emuRun_result h
  · cases h
    exact .noReset

/-- The low byte of a result is its code, and only `OTHER_COMMAND` has a byte above it (R131). -/
theorem PassResult.bounds {v : Half} (h : PassResult v) :
    v.toNat % 256 ≤ 3 ∧ (v.toNat % 256 = 1 → v.toNat / 256 ≠ 0x33) ∧ (v.toNat % 256 ≠ 1 → v.toNat < 256) := by
  cases h with
  | noReset | identitySent | timeout => decide
  | otherCommand cmd h =>
    have hcmd : cmd.toNat ≠ 0x33 := fun heq => h (BitVec.eq_of_toNat_eq heq)
    rw [otherCommand_toNat]
    omega

/-- A busy block that a pass leaves idle has the pass's result (R74, R128). -/
theorem owEmulatePoll_idle {s t : State} (h : exec .owEmulatePoll s = .next t) (hbusy : s.seq.isBusy = true)
    (hidle : t.seq = .idle) : ∃ v, (emuPass s.cfg s.regs.idbuf s.bus.env).1.ending = .code v := by
  by_contra hnone
  rw [exec_owEmulatePoll_stuck (not_exists.1 hnone)] at h
  cases h
  rw [hidle] at hbusy
  cases hbusy

/-- Settles O34: the pass ended with a result (`owEmulatePoll_idle`), which is one of R131 (`emuPass_result`). -/
theorem emulateResultCodes : Obligations.EmulateResultCodes := by
  intro s t hexec hbusy hidle
  obtain ⟨v, hv⟩ := owEmulatePoll_idle hexec hbusy hidle
  rw [exec_owEmulatePoll_code hv] at hexec
  cases hexec
  obtain ⟨hcode, hother, hhigh⟩ := (emuPass_result hv).bounds
  rw [State.finish_result, BitVec.toNat_setWidth_of_le (by decide)]
  exact ⟨rfl, hcode, v.isLt, hother, hhigh⟩

/-! ## A transaction the master restarts (R132) -/

theorem emuRun_reset (c : Config) (id : Vector Byte 8) (p : EmuPhase) (rest : List MasterEvent) :
    emuRun c id p (.reset :: rest) = (emuRun c id (.command 0 0#8) rest).after emuRestart := by
  cases p <;> rfl

/-- A pass whose unfinished transaction is reset goes on as a pass that begins with that reset (R132). -/
theorem emuPass_restart {s : State} {env e e' : Env} {pre rest : List MasterEvent}
    (hlook : s.bus.env.drawSample = (.reset, e)) (hahead : e.masterAhead = pre ++ .reset :: rest)
    (hpre : Unfinished pre) (hlook' : env.drawSample = (.reset, e')) (hahead' : e'.masterAhead = rest)
    (id : Vector Byte 8) : ∃ as, as.map SlaveAction.event = restartEvents ++ transactionEvents id pre ∧
      (emuPass s.cfg id s.bus.env).1 = (emuPass s.cfg id env).1.after as := by
  obtain ⟨p, as, has, hpass⟩ := emuPass_unfinished hlook hahead hpre id
  refine ⟨emuRestart ++ as, by rw [List.map_append, has]; rfl, ?_⟩
  rw [hpass, emuRun_reset, emuPass_of_reset hlook', hahead']

/-- Settles O35: both passes end alike (`emuPass_restart`), the longer one with the first transaction before the
events of the other. -/
theorem emulateRestart : Obligations.EmulateRestart := by
  intro s t t' b e e' pre rest hlook hahead hpre hlook' hahead' hexec hexec'
  obtain ⟨as, has, hpass⟩ := emuPass_restart hlook hahead hpre hlook' hahead' s.regs.idbuf
  by_cases hend : ∃ v, (emuPass s.cfg s.regs.idbuf b.env).1.ending = .code v
  · obtain ⟨v, hv⟩ := hend
    rw [exec_owEmulatePoll_code (v := v) (by rw [hpass]; exact hv)] at hexec
    rw [exec_owEmulatePoll_code (s := s.setBus b) hv] at hexec'
    cases hexec
    cases hexec'
    refine ⟨rfl, rfl, rfl, fun _ _ => ⟨_, b.emulated_hist _ (emuPass s.cfg s.regs.idbuf b.env).2, ?starts, ?shows⟩⟩
    case starts => simp [emuPass_of_reset hlook', emuRestart, restartEvents, SlaveAction.event]
    case shows => simp [hpass, has]
  · have hstuck := not_exists.1 hend
    rw [exec_owEmulatePoll_stuck (by rw [hpass]; exact hstuck)] at hexec
    rw [exec_owEmulatePoll_stuck (s := s.setBus b) hstuck] at hexec'
    cases hexec
    cases hexec'
    refine ⟨rfl, rfl, rfl, fun hbusy hidle => ?_⟩
    rw [hidle] at hbusy
    cases hbusy

end Sys2Proof.Machine
end

section
/-! PROOFS. A reset while a command runs (R162, R163): the events of a command or a pass as far as the cut reaches, and
the byte writes of a key-store command as far as they were applied. -/

namespace Sys2Proof.Machine

/-! ## No bus command reads the coming inputs (R152) -/

/-- The state with these inputs still to come. -/
def State.withAgenda (s : State) (rest : List Input) : State := { s with agenda := rest }

section
variable (s : State) (rest : List Input)

theorem State.readRomRaw_withAgenda :
    (s.withAgenda rest).readRomRaw = (s.readRomRaw.1, s.readRomRaw.2.withAgenda rest) := by
  have hsame : (s.withAgenda rest).bus.readRomRaw (s.withAgenda rest).cfg.timing = s.bus.readRomRaw s.cfg.timing := rfl
  unfold State.readRomRaw
  rw [hsame]
  obtain ⟨_ | rb, b⟩ := s.bus.readRomRaw s.cfg.timing <;> rfl

theorem State.checkIdentity_withAgenda :
    (s.withAgenda rest).checkIdentity = s.checkIdentity.withAgenda rest := by
  unfold State.checkIdentity
  dsimp only
  rw [apply_ite (State.withAgenda · rest), apply_ite (State.withAgenda · rest)]
  rfl

theorem State.cloneVerify_withAgenda : (s.withAgenda rest).cloneVerify = s.cloneVerify.withAgenda rest := by
  unfold State.cloneVerify
  rw [State.readRomRaw_withAgenda]
  dsimp only
  rw [apply_ite (State.withAgenda · rest), apply_ite (State.withAgenda · rest)]
  rfl

theorem exec_owEmulatePoll_withAgenda {u : State} (h : exec .owEmulatePoll s = .next u) :
    exec .owEmulatePoll (s.withAgenda rest) = .next (u.withAgenda rest) := by
  by_cases hend : ∃ v, (emuPass s.cfg s.regs.idbuf s.bus.env).1.ending = .code v
  · obtain ⟨v, hv⟩ := hend
    rw [exec_owEmulatePoll_code hv] at h
    cases h
    exact exec_owEmulatePoll_code (s := s.withAgenda rest) hv
  · rw [exec_owEmulatePoll_stuck (not_exists.1 hend)] at h
    cases h
    exact exec_owEmulatePoll_stuck (s := s.withAgenda rest) (not_exists.1 hend)

end

/-- A bus command does the same whatever inputs are to come. -/
theorem exec_withAgenda {i : Instr} (hbus : mayChange i .bus = true) {s u : State} (h : exec i s = .next u)
    (rest : List Input) : exec i (s.withAgenda rest) = .next (u.withAgenda rest) := by
  cases i with
  | owReset | owWriteBit | owReadBit | owWriteByte | owReadByte | owWriteEnable => cases h; rfl
  | owReadId =>
    cases h
    rw [exec, execOwReadId, State.readRomRaw_withAgenda, apply_ite (State.withAgenda · rest),
      ← State.checkIdentity_withAgenda]
    rfl
  | owReadRaw =>
    cases h
    rw [exec, execOwReadRaw, State.readRomRaw_withAgenda, apply_ite (State.withAgenda · rest)]
    rfl
  | owCloneWrite =>
    cases h
    rw [apply_ite (State.withAgenda · rest), ← State.cloneVerify_withAgenda]
    rfl
  | owEmulatePoll => exact exec_owEmulatePoll_withAgenda s rest h
  | _ => cases hbus

/-! ## The events of a cut command (R162) -/

/-- The events of a command that ends, and nothing after them. -/
structure ShowsOnly (u : Unbroken) (es : List Event) : Prop where
  events : u.events = es
  repeats : u.repeats = []
  waits : u.waits = false

/-- Such a command leaves the completed slots, and `Truncated` if the next one was in progress. -/
theorem ShowsOnly.cutEvents {u : Unbroken} {es : List Event} (h : ShowsOnly u es) (cut : Truncation) :
    cutEvents u cut = es.take cut.slots ++
      (if cut.inSlot = true ∧ cut.slots < es.length then [.truncated] else []) := by
  simp [Machine.cutEvents, Unbroken.upTo, h.events, h.repeats, h.waits]

theorem showsOnly_unbrokenStore (s : State) (r : Except CmdError StorePlan) : ShowsOnly (unbrokenStore s r) [] := by
  cases r <;> exact ⟨rfl, rfl, rfl⟩

theorem showsOnly_of_no_bus {i : Instr} (hbus : mayChange i .bus = false) (s : State) :
    ShowsOnly (unbroken i s) [] := by
  cases i with
  | nop | crcClear | crcUpdate | crcSeal | ksCount | ksGet | ksSetCount | ksResolve => exact ⟨rfl, rfl, rfl⟩
  | ksInsert | ksDelete => exact showsOnly_unbrokenStore ..
  | _ => cases hbus

theorem showsOnly_unbrokenBus {s u : State} {es : List Event} (hes : u.bus.hist = s.bus.hist ++ es) :
    ShowsOnly (unbrokenBus s (.next u)) es where
  events := by simp [unbrokenBus, hes]
  repeats := rfl
  waits := rfl

theorem showsOnly_unbrokenPass {s u : State} {es : List Event} (h : exec .owEmulatePoll s = .next u)
    (hbusy : s.seq.isBusy = true) (hidle : u.seq = .idle) (hes : u.bus.hist = s.bus.hist ++ es) :
    ShowsOnly (unbrokenPass s) es := by
  obtain ⟨v, hv⟩ := owEmulatePoll_idle h hbusy hidle
  obtain ⟨t, ht, -, hhist, -⟩ := owEmulatePoll_completes rfl hv
  obtain rfl : t = u := by cases ht.symm.trans h; rfl
  exact ⟨List.append_cancel_left (hhist.symm.trans hes), by simp [unbrokenPass, hv], by simp [unbrokenPass, hv]⟩

/-- A command that completes shows just the events it appends to the history, whatever inputs are to come. -/
theorem showsOnly_withAgenda {i : Instr} {s u : State} {es : List Event} (h : exec i s = .next u)
    (hbusy : s.seq.isBusy = true) (hidle : u.seq = .idle) (hes : u.bus.hist = s.bus.hist ++ es)
    (rest : List Input) : ShowsOnly (unbroken i (s.withAgenda rest)) es := by
  cases hbus : mayChange i .bus with
  | false =>
    obtain ⟨hhist, -⟩ := exec_differsIn h .bus hbus
    obtain rfl : es = [] := List.append_cancel_left (hes.symm.trans (hhist.trans (List.append_nil _).symm))
    exact showsOnly_of_no_bus hbus _
  | true =>
    have hexec := exec_withAgenda hbus h rest
    cases i with
    | owEmulatePoll => exact showsOnly_unbrokenPass hexec hbusy hidle hes
    | owReset | owWriteBit | owReadBit | owWriteByte | owReadByte | owWriteEnable | owReadId | owReadRaw
    | owCloneWrite => rw [unbroken, hexec]; exact showsOnly_unbrokenBus hes
    | _ => cases hbus

/-! ## Passes without end (R133, log entries 4 and 9) -/

section
variable {s : State} {es : List Event}
  (hes : (emuPass s.cfg s.regs.idbuf s.bus.env).1.actions.map SlaveAction.event = es)
include hes

/-- A pass that waits leaves the completed slots, and `Truncated` if the cut came in the slot it waited for. -/
theorem cutEvents_waiting (hend : (emuPass s.cfg s.regs.idbuf s.bus.env).1.ending = .waiting) (cut : Truncation) :
    cutEvents (unbroken .owEmulatePoll s) cut =
      es.take cut.slots ++ (if cut.inSlot = true then [.truncated] else []) := by
  simp [cutEvents, Unbroken.upTo, unbroken, unbrokenPass, hend, hes]

/-- A pass restarted without end leaves the events of its slots and then those of reset after reset, as far as the cut,
and always has a next slot. -/
theorem cutEvents_endless (hend : (emuPass s.cfg s.regs.idbuf s.bus.env).1.ending = .endless) (hne : es ≠ [])
    (cut : Truncation) : cutEvents (unbroken .owEmulatePoll s) cut =
      (es ++ (List.replicate cut.slots restartEvents).flatten).take cut.slots ++
        (if cut.inSlot = true then [.truncated] else []) := by
  have hshown : (unbroken .owEmulatePoll s).upTo cut.slots
      = es ++ (List.replicate cut.slots restartEvents).flatten := by
    simp [Unbroken.upTo, unbroken, unbrokenPass, hend, hes, emuRestart, restartEvents, SlaveAction.event]
  have hnext : cut.slots < (es ++ (List.replicate cut.slots restartEvents).flatten).length := by
    have hlen : (List.replicate cut.slots restartEvents).flatten.length = cut.slots * 2 := by simp [restartEvents]
    have hpos := List.length_pos_iff.2 hne
    rw [List.length_append, hlen]
    omega
  rw [cutEvents, hshown, decide_eq_true hnext, Bool.true_or, Bool.and_true]

end

section
variable {s : State} {e : Env} {pre tail : List MasterEvent} (hlook : s.bus.env.drawSample = (.reset, e))
  (hahead : e.masterAhead = pre ++ tail) (hpre : Unfinished pre)
include hlook hahead hpre

/-- A pass in which nothing happens after an unfinished transaction shows the reset and the transaction (R128). -/
theorem emuPass_unfinished_events {id : Vector Byte 8} (hnothing : ∀ p, (emuRun s.cfg id p tail).actions = []) :
    (emuPass s.cfg id s.bus.env).1.actions.map SlaveAction.event = restartEvents ++ transactionEvents id pre := by
  obtain ⟨p, as, has, hpass⟩ := emuPass_unfinished hlook hahead hpre id
  rw [hpass, EmuRun.after_actions, hnothing, List.append_nil, List.map_append, has]
  rfl

theorem emuPass_waiting_events (hstop : tail = [] ∨ ∃ r, tail = .silent :: r) (hnone : s.cfg.emuSlotTimeout = none)
    (id : Vector Byte 8) :
    (emuPass s.cfg id s.bus.env).1.actions.map SlaveAction.event = restartEvents ++ transactionEvents id pre :=
  emuPass_unfinished_events hlook hahead hpre fun p => by
    obtain ⟨rest, hrun⟩ := emuRun_silent s.cfg id p hstop
    simp [hrun, emuSilence, hnone]

theorem emuPass_endless_events (hresets : ∃ r, tail = .resets :: r) (id : Vector Byte 8) :
    (emuPass s.cfg id s.bus.env).1.actions.map SlaveAction.event = restartEvents ++ transactionEvents id pre :=
  emuPass_unfinished_events hlook hahead hpre fun p => by
    obtain ⟨r, rfl⟩ := hresets
    cases p <;> rfl

end

/-! ## The byte writes of a cut command (R163) -/

section
variable (m : Memory) (writes : List Host.Cell) (cut : Truncation)

theorem tornWrites_of_lt (h : cut.writes < writes.length) :
    tornWrites writes cut = writes.take cut.writes ++ [(writes[cut.writes].1, cut.torn)] := by
  rw [tornWrites, List.drop_eq_getElem_cons h]

theorem tornWrites_of_ge (h : writes.length ≤ cut.writes) : tornWrites writes cut = writes.take cut.writes := by
  rw [tornWrites, List.drop_of_length_le h, List.append_nil]

/-- But for the byte in progress the NVM holds what the applied writes leave (R163). -/
theorem read_storeAll_tornWrites_other {a : Nat}
    (ha : ∀ h : cut.writes < writes.length, a ≠ writes[cut.writes].1) :
    (m.storeAll (tornWrites writes cut)).read a = (m.storeAll (writes.take cut.writes)).read a := by
  by_cases h : cut.writes < writes.length
  · rw [tornWrites_of_lt writes cut h, Memory.storeAll_append]
    exact Memory.read_store_other _ _ (ha h)
  · rw [tornWrites_of_ge writes cut (not_lt.1 h)]

/-- The byte in progress holds any value (R163). -/
theorem read_storeAll_tornWrites_target (h : cut.writes < writes.length) :
    (m.storeAll (tornWrites writes cut)).read writes[cut.writes].1 = cut.torn := by
  rw [tornWrites_of_lt writes cut h, Memory.storeAll_append]
  exact Memory.read_store_same _ _ _

end

/-- A key-store command that passed its checks has the writes of its plan to tear. -/
theorem unbroken_writes_of_plan {i : Instr} {s : State} {plan : StorePlan}
    (h : (i = .ksInsert ∧ insertPlan s.cfg s.regs s.nvm = .ok plan) ∨
      (∃ n, i = .ksDelete n ∧ deletePlan s.cfg.nslots s.nvm n = .ok plan) ∨
      (∃ n, i = .ksSetCount n ∧ plan = setCountPlan n)) : (unbroken i s).writes = plan.writes := by
  obtain ⟨rfl, hplan⟩ | ⟨n, rfl, hplan⟩ | ⟨n, rfl, rfl⟩ := h
  · rw [unbroken, hplan, unbrokenStore]
  · rw [unbroken, hplan, unbrokenStore]
  · rfl

/-! ## The obligation -/

/-- A reset cuts the command that the sequencer holds (R161 to R163). -/
theorem step_reset_command {s : State} {w : Word} {i : Instr} {cut : Truncation} {rest : List Input}
    (hs : s.agenda = .reset cut :: rest) (hseq : s.seq = .busy w) (hw : decode w = .ok i) :
    ∃ t, step s = .next t ∧ t.bus.hist = s.bus.hist ++ cutEvents (unbroken i (s.withAgenda rest)) cut ∧
      t.nvm = s.nvm.storeAll (tornWrites (unbroken i (s.withAgenda rest)).writes cut) := by
  have hrun : (s.withAgenda rest).running = unbroken i (s.withAgenda rest) := State.running_command hseq hw
  rw [← hrun]
  exact ⟨_, step_reset hs, rfl, rfl⟩

/-- Settles O57: a completed command shows its events (`showsOnly_withAgenda`), a pass that waits or restarts without
end is cut by `cutEvents_waiting` and `cutEvents_endless`, and the byte writes are torn by
`read_storeAll_tornWrites_other` and `read_storeAll_tornWrites_target`. -/
theorem resetCutsCommand : Obligations.ResetCutsCommand := by
  refine ⟨fun s u w i cut rest es hs hseq hw hexec hidle hes => ?completed,
    fun s w i plan cut rest hs hseq hw hplan => ?stores,
    fun s w cut rest e pre tail hs hseq hw hlook hahead hpre => ⟨fun hnone hstop => ?waits, fun hresets => ?restarts⟩⟩
  case completed =>
    obtain ⟨t, hstep, hhist, -⟩ := step_reset_command hs hseq hw
    have hshows : ShowsOnly (unbroken i (s.withAgenda rest)) es :=
      showsOnly_withAgenda hexec (by rw [hseq]; rfl) hidle hes rest
    exact ⟨t, hstep, by rw [hhist, hshows.cutEvents, List.append_assoc]⟩
  case stores =>
    obtain ⟨t, hstep, -, hnvm⟩ := step_reset_command hs hseq hw
    rw [unbroken_writes_of_plan (s := s.withAgenda rest) hplan] at hnvm
    refine ⟨t, hstep, fun a ha => ?_, fun h => ?_⟩ <;> rw [hnvm]
    · exact read_storeAll_tornWrites_other _ _ _ ha
    · exact read_storeAll_tornWrites_target _ _ _ h
  case waits =>
    obtain ⟨t, hstep, hhist, -⟩ := step_reset_command hs hseq hw
    rw [cutEvents_waiting (s := s.withAgenda rest) (emuPass_waiting_events hlook hahead hpre hstop hnone _)
      (emuPass_waiting hlook hahead hpre hstop hnone _), ← List.append_assoc] at hhist
    exact ⟨t, hstep, hhist⟩
  case restarts =>
    obtain ⟨t, hstep, hhist, -⟩ := step_reset_command hs hseq hw
    rw [cutEvents_endless (s := s.withAgenda rest) (emuPass_endless_events hlook hahead hpre hresets _)
      (emuPass_endless hlook hahead hpre hresets _) (by simp [restartEvents]), ← List.append_assoc] at hhist
    exact ⟨t, hstep, hhist⟩

end Sys2Proof.Machine
end

section
/-! PROOFS. The CRC-8 generator (R136 to R142): the step as a table lookup, the fold over a sequence, and what
`CRC_CLEAR`, `CRC_UPDATE` and `CRC_SEAL` leave when they complete. -/

namespace Sys2Proof.Machine

/-! ## The function (R136, R137, R142) -/

/-- The loop of R136 looks at `c` and `b` only through `c ^ b`: the bits of `b` not yet folded are all that tells the
loop on the pair from the loop on `(c ^ b, 0)`. -/
theorem crc8Bits_xor_shift (n : Nat) (c b : Byte) : crc8Bits n c b ^^^ (b >>> n) = crc8Bits n (c ^^^ b) 0x00#8 := by
  induction n generalizing c b with
  | zero => rw [BitVec.ushiftRight_zero]; rfl
  | succ n ih =>
    have hmix : (c ^^^ b).getLsbD 0 = (c.getLsbD 0 ^^ b.getLsbD 0) := BitVec.getLsbD_xor
    have hshift : b >>> (n + 1) = (b >>> 1) >>> n := by rw [Nat.add_comm, BitVec.shiftRight_add]
    rw [crc8Bits, crc8Bits, hshift, ih, hmix, BitVec.getLsbD_zero, Bool.xor_false, BitVec.zero_ushiftRight,
      BitVec.ushiftRight_xor_distrib]
    cases c.getLsbD 0 ^^ b.getLsbD 0 with
    | false => rfl
    | true =>
      have hswap : (c >>> 1 ^^^ 0x8C#8) ^^^ b >>> 1 = (c >>> 1 ^^^ b >>> 1) ^^^ 0x8C#8 := by ac_rfl
      exact congrArg (crc8Bits n · 0x00#8) hswap

/-- The step is the table T[i] = `crc8_step(i, 0)` at `c ^ b` (R142). -/
theorem crc8Step_eq_table (c b : Byte) : crc8Step c b = crc8Step (c ^^^ b) 0x00#8 := by
  have h := crc8Bits_xor_shift 8 c b
  rwa [BitVec.ushiftRight_eq_zero (Nat.le_refl 8), BitVec.xor_zero] at h

/-- Folding the current value gives 0, since T[0] = 0 (R139). -/
theorem crc8Step_self (c : Byte) : crc8Step c c = 0x00#8 := by
  rw [crc8Step_eq_table, BitVec.xor_self]
  decide

theorem crc8From_append (c : Byte) (s t : List Byte) : crc8From c (s ++ t) = crc8From (crc8From c s) t := by
  induction s generalizing c with
  | nil => rfl
  | cons b rest ih => exact ih (crc8Step c b)

/-- The bytes are folded in their order (R137). -/
theorem crc8_append_byte (s : List Byte) (b : Byte) : crc8 (s ++ [b]) = crc8Step (crc8 s) b := crc8From_append _ s [b]

/-- The residue of a sequence sealed with its own CRC is 0 (R137). -/
theorem crc8_append_crc8 (s : List Byte) : crc8 (s ++ [crc8 s]) = 0x00#8 :=
  (crc8_append_byte s _).trans (crc8Step_self _)

/-- A sequence of zero bytes has the CRC 0. -/
theorem crc8_replicate_zero (n : Nat) : crc8 (List.replicate n 0x00#8) = 0x00#8 := by
  induction n with
  | zero => rfl
  | succ n ih => rw [List.replicate_succ', crc8_append_byte, ih, crc8Step_self]

set_option maxRecDepth 4000 in
/-- Settles O15: the fold by `crc8_append_byte`, the residue by `crc8_append_crc8`; the two examples are evaluated. -/
theorem crcOfSequence : Obligations.CrcOfSequence :=
  ⟨rfl, crc8_append_byte, by decide, by decide, crc8_append_crc8⟩

set_option maxRecDepth 4000 in
/-- Settles O14: the table by `crc8Step_eq_table`; the worked example is evaluated. -/
theorem crcTableForm : Obligations.CrcTableForm := ⟨crc8Step_eq_table, by decide, by decide⟩

/-! ## CRC_CLEAR and CRC_UPDATE (R138, R139) -/

/-- Settles O16: `finish(0)` after `CRC` is set, the row of `CRC_CLEAR`, and the reset value of `CRC`. -/
theorem crcClearCompletes : Obligations.CrcClearCompletes :=
  ⟨fun s => ⟨_, rfl, ((Working.refl s).setCrc _).finishedWith _, rfl, rfl, rfl, rfl, rfl, fun _ => rfl, ⟨rfl, rfl⟩⟩,
    rfl, rfl⟩

theorem crcUpdate_row_mem : ⟨0x21000000#32, 0xFFFFFF00#32, .crcUpdate⟩ ∈ opcodeMap := by simp [opcodeMap]

/-- Settles O17: `finish` with the new value after `CRC` is set to it, the row of `CRC_UPDATE`, and `crc8Step_self`. -/
theorem crcUpdateCompletes : Obligations.CrcUpdateCompletes :=
  ⟨fun _ s => ⟨_, rfl, ((Working.refl s).setCrc _).finishedWith _, rfl, rfl, rfl, rfl, rfl, fun _ => rfl, ⟨rfl, rfl⟩⟩,
    fun _ hopc => decode_error_of_zero_bits crcUpdate_row_mem hopc (by decide) (by decide), crc8Step_self⟩

/-! ## CRC_SEAL (R140) -/

/-- The buffer with the CRC of its identity bytes 0 to 6 in byte 7. -/
def sealed (id : Vector Byte 8) : Vector Byte 8 := id.set 7 (crc8 (identityBody id))

/-- `CRC_SEAL` seals `IDBUF` and returns the CRC byte. -/
theorem exec_crcSeal (s : State) : exec .crcSeal s =
    .next ((s.setIdbuf (sealed s.regs.idbuf)).finish (byteResult (crc8 (identityBody s.regs.idbuf)))) := rfl

theorem sealed_crc_byte (id : Vector Byte 8) : (sealed id)[7] = crc8 (identityBody id) := Vector.getElem_set_self ..

/-- Sealing keeps the identity bytes 0 to 6. -/
theorem identityBody_sealed (id : Vector Byte 8) : identityBody (sealed id) = identityBody id := by
  rw [identityBody, sealed, Vector.toList_set, List.take_set_of_le (Nat.le_refl 7)]
  rfl

/-- Sealing twice is sealing once. -/
theorem sealed_sealed (id : Vector Byte 8) : sealed (sealed id) = sealed id := by
  rw [sealed, identityBody_sealed, sealed, Vector.set_set]

/-- Settles O18: byte 7 by `sealed_crc_byte`, bytes 0 to 6 by `identityBody_sealed`, the second run by
`sealed_sealed`, and the zero buffer by `crc8_replicate_zero`. -/
theorem crcSealCompletes : Obligations.CrcSealCompletes := by
  refine ⟨fun s => ⟨_, exec_crcSeal s, ((Working.refl s).setIdbuf _).finishedWith _, sealed_crc_byte _,
    identityBody_sealed _, rfl, rfl, rfl, rfl, fun _ => rfl, ⟨rfl, rfl⟩, ⟨_, exec_crcSeal _, sealed_sealed _⟩,
    fun hzero => ?zero⟩, rfl⟩
  case zero => calc
    (sealed s.regs.idbuf)[7] = crc8 (identityBody (Vector.replicate 8 0x00#8)) := by rw [sealed_crc_byte, hzero]
    _ = 0x00#8 := crc8_replicate_zero 7

end Sys2Proof.Machine
end

section
/-! PROOFS. The error matrix (R145): which faults the walks, the plans and the checks of a command can answer, and that
each command ends with success or with a code of its row. -/

namespace Sys2Proof.Machine

/-! ## The codes of the key store's faults (R82, R87, R94, R97) -/

/-- What a walk or the neighbour analysis reports: `TABLE_OVERRUN` or `CORRUPT_MARKER`. -/
def tableFaultCodes : List Byte := [0x12#8, 0x16#8]

theorem tableOverrun_mem (p : Nat) : (CmdError.tableOverrun p).code ∈ tableFaultCodes := .head _

theorem corruptMarker_mem (q : Nat) : (CmdError.corruptMarker q).code ∈ tableFaultCodes := .tail _ (.head _)

/-- The row of the commands that take an index (R145). -/
def indexedCodes : List Byte := 0x11#8 :: tableFaultCodes

section
variable {m : Memory} {nslots n : Nat} {e : CmdError}

theorem resolve_error_code (h : resolve m nslots n = .error e) : e.code ∈ tableFaultCodes := by
  obtain ⟨p, k, -, -, ⟨-, rfl⟩ | ⟨-, -, -, rfl⟩⟩ := resolve_eq_iff.1 h
  · exact tableOverrun_mem p
  · exact corruptMarker_mem p

theorem logicalEnd_error_code (h : logicalEnd m nslots = .error e) : e.code ∈ tableFaultCodes :=
  resolve_error_code (logicalEnd_error_iff.1 h).2

theorem neighbours_error_code {p le : Nat} (h : neighbours m p le = .error e) : e.code ∈ tableFaultCodes := by
  obtain ⟨-, rfl⟩ | ⟨-, -, rfl⟩ := neighbours_error_iff.1 h <;> exact corruptMarker_mem _

theorem resolveIndex_error_code (h : resolveIndex m nslots n = .error e) : e.code ∈ indexedCodes := by
  obtain hn | hn := le_or_gt (liveCount m) n
  · rw [resolveIndex_of_ge hn] at h
    cases h
    exact .head _
  · rw [resolveIndex_of_lt hn] at h
    exact .tail _ (resolve_error_code h)

/-- The plan of a delete fails by its index check, a walk or the neighbour analysis (R98). -/
theorem deletePlan_error_code (h : deletePlan nslots m n = .error e) : e.code ∈ indexedCodes := by
  unfold deletePlan at h
  split at h
  · cases h
    exact .head _
  · split at h
    · next hend => cases h; exact .tail _ (logicalEnd_error_code hend)
    · split at h
      · next hwalk => cases h; exact .tail _ (resolve_error_code hwalk)
      · split at h
        · next hside => cases h; exact .tail _ (neighbours_error_code hside)
        · cases h

/-- The plan of an insert fails by its operands, a walk or a full table (R94). -/
theorem insertPlan_error_code {c : Config} {r : Regs} (h : insertPlan c r m = .error e) :
    e.code ∈ permittedCodes .ksInsert := by
  unfold insertPlan at h
  split at h
  · cases h
    exact .head _
  · split at h
    · cases h
      exact .tail _ (.head _)
    · split at h
      · next hchoice =>
        cases h
        obtain hend | ⟨-, -, rfl⟩ := chooseSlot_error_iff.1 hchoice
        · have htable : tableFaultCodes ⊆ permittedCodes .ksInsert := by decide
          exact htable (logicalEnd_error_code hend)
        · decide
      · cases h

end

/-! ## What a command reports -/

/-- The block reports success or one of the codes. -/
def ReportsIn (codes : List Byte) (t : State) : Prop :=
  t.regs.status.errcode = 0x00#8 ∨ t.regs.status.errcode ∈ codes

section
variable {codes : List Byte} {u : State}

theorem reportsIn_finish (v : Half) : ReportsIn codes (u.finish v) := .inl rfl

theorem reportsIn_raise {e : CmdError} (he : e.code ∈ codes) : ReportsIn codes (u.raise e) := .inr he

theorem reportsIn_carryOut {r : Except CmdError StorePlan} (he : ∀ e, r = .error e → e.code ∈ codes) :
    ReportsIn codes (u.carryOut r) := by
  cases r with
  | ok plan => exact reportsIn_finish _
  | error e => exact reportsIn_raise (he e rfl)

end

/-- The checks on a read identity report its family or its checksum (R121, R122). -/
theorem State.checkIdentity_reportsIn (u : State) : ReportsIn (permittedCodes .owReadId) u.checkIdentity := by
  unfold State.checkIdentity
  dsimp only
  split_ifs
  · exact reportsIn_raise (.tail _ (.head _))
  · exact reportsIn_raise (.tail _ (.tail _ (.head _)))
  · exact reportsIn_finish _

/-- The read-back of a clone write reports an absent device or a mismatch (R125, R126). -/
theorem State.cloneVerify_reportsIn (u : State) : ReportsIn (permittedCodes .owCloneWrite) u.cloneVerify := by
  unfold State.cloneVerify
  dsimp only
  split_ifs
  · exact reportsIn_raise (.tail _ (.head _))
  · exact reportsIn_finish _
  · exact reportsIn_raise (.head _)

/-- A pass reports no error: it ends with a result, or leaves the block as it is (R128, R133). -/
theorem owEmulatePoll_reportsIn {s t : State} (h : exec .owEmulatePoll s = .next t)
    (hzero : s.regs.status.errcode = 0x00#8) : ReportsIn (permittedCodes .owEmulatePoll) t := by
  by_cases hend : ∃ v, (emuPass s.cfg s.regs.idbuf s.bus.env).1.ending = .code v
  · obtain ⟨v, hv⟩ := hend
    cases (exec_owEmulatePoll_code hv).symm.trans h
    exact reportsIn_finish v
  · cases (exec_owEmulatePoll_stuck (not_exists.1 hend)).symm.trans h
    exact .inl hzero

/-- Each command reports success or a code of its row (R145). -/
theorem exec_reportsIn {i : Instr} {s t : State} (h : exec i s = .next t) (hzero : s.regs.status.errcode = 0x00#8) :
    ReportsIn (permittedCodes i) t := by
  cases i with
  | owEmulatePoll => exact owEmulatePoll_reportsIn h hzero
  | nop | owReset | owWriteBit | owReadBit | owWriteByte | owReadByte | owWriteEnable | crcClear | crcUpdate | crcSeal
  | ksCount | ksSetCount => cases h; exact reportsIn_finish _
  | owReadId =>
    cases h
    split
    · exact State.checkIdentity_reportsIn _
    · exact reportsIn_raise (.head _)
  | owReadRaw =>
    cases h
    split
    · exact reportsIn_finish _
    · exact reportsIn_raise (.head _)
  | owCloneWrite =>
    cases h
    split
    · exact State.cloneVerify_reportsIn _
    · exact reportsIn_raise (.head _)
  | ksGet n | ksResolve n =>
    cases h
    split
    · exact reportsIn_finish _
    · next hindex => exact reportsIn_raise (resolveIndex_error_code hindex)
  | ksInsert => cases h; exact reportsIn_carryOut fun _ => insertPlan_error_code
  | ksDelete n => cases h; exact reportsIn_carryOut fun _ => deletePlan_error_code

/-! ## The obligation -/

/-- An `ILLEGAL` word completes with `ILLEGAL_COMMAND` (R66). -/
theorem State.runCommand_illegal (s : State) {w : Word} {e : Illegal} (hw : decode w = .error e) :
    s.runCommand w = .next (s.raise (.illegalCommand w)) := by
  rw [State.runCommand, hw]

/-- Settles O11: a word that does not decode by `State.runCommand_illegal`, the commands by `exec_reportsIn`. -/
theorem errorMatrix : Obligations.ErrorMatrix :=
  ⟨fun s _ _ hw => ⟨_, s.runCommand_illegal hw, rfl⟩, fun _ _ _ => exec_reportsIn⟩

end Sys2Proof.Machine
end

section
/-! PROOFS. The format command (R166, R167): a count of 0 makes any NVM a well-formed empty table. -/

namespace Sys2Proof.Machine

/-- No run lies below slot 0, so none there is unmarked. -/
theorem runsMarked_zero (m : Memory) : RunsMarked m 0 := fun _ _ span => absurd span.inside (Nat.not_lt_zero _)

/-- With a count of 0 the table ends at slot 0, whatever the slot bytes hold (R83, R167). -/
theorem tableWF_of_liveCount_eq_zero {m : Memory} (nslots : Nat) (h : liveCount m = 0) : TableWF nslots m :=
  tableWF_of_runsMarked (runsMarked_zero m) (Nat.zero_le nslots) h.symm

/-- Settles O51: the counter written is 0 (`liveCount_storeAll_counter`), which makes the table well formed
(`tableWF_of_liveCount_eq_zero`), and `KS_COUNT` finishes with it. -/
theorem formatMakesTable : Obligations.FormatMakesTable := by
  intro s
  have hcount : liveCount (s.nvm.storeAll (setCountPlan 0).writes) = 0 := liveCount_storeAll_counter s.nvm 0
  exact ⟨_, _, rfl, tableWF_of_liveCount_eq_zero _ hcount, hcount, rfl, rfl,
    congrArg (fun count => (BitVec.ofNat 16 count).setWidth 32) hcount⟩

end Sys2Proof.Machine
end
